-- ==== Sys2Proof/Word.lean ====
section
/-! DEFINITION. The byte and address types of the block (00_scope.md R11, 20_memory.md R45). -/

namespace Sys2Proof

/-- A byte: an unsigned 8-bit value (R11). -/
abbrev Byte := BitVec 8

/-- A byte sequence (R12). -/
abbrev Bytes := List Byte

/-- A flash address: "24-bit unsigned offset into the flash address space" (R45). -/
abbrev FlashAddr := BitVec 24

end Sys2Proof
end

