-- ==== Sys2Proof/Config.lean ====
section
/-! DEFINITION. The fixed constants of 00_scope.md R9, the open parameters of R10, the shapes of the transport's
answers (R14) and the free answers of the oracle (R8), which have no body. -/

namespace Sys2Proof

namespace Config

/-- `GPIO_DIR_MASK` (R9): the direction mask the block writes with every GPIO value. -/
abbrev gpioDirMask : Byte := 0x93

/-- Direction after `OPEN`'s bit-mode call, "all lines initially set to output" (R26, R97; 90_conflicts.md C1). -/
abbrev gpioDirAllOut : Byte := 0xFF

/-- `CS_BIT` (R9): chip-select, active low. -/
abbrev csBit : Nat := 4

/-- `CDONE_BIT` (R9): configuration-done, input. -/
abbrev cdoneBit : Nat := 6

/-- `CRESET_BIT` (R9): board reset, active low. -/
abbrev cresetBit : Nat := 7

/-- `DIV_FULL` (R9). -/
abbrev divFull : BitVec 16 := 0

/-- `DIV_SLOW` (R9). -/
abbrev divSlow : BitVec 16 := 119

/-- `MAX_FRAME` (R9): the largest payload of one byte frame. -/
abbrev maxFrame : Nat := 65536

/-- `PAGE_SIZE` (R9). -/
abbrev pageSize : Nat := 256

/-- `BLOCK_SIZE` (R9). -/
abbrev blockSize : Nat := 65536

/-- `2 ^ ADDR_BITS` (R9, R59): the first natural that is no flash address. -/
abbrev addrLimit : Nat := 0x1000000

/-- `RESET_FF_COUNT` (R9). -/
abbrev resetFfCount : Nat := 8

/-- `DEBOUNCE_N` (R9): consecutive not-busy polls that end a busy wait. -/
abbrev debounceN : Fin 3 := 2

/-- `BITS_MAX` (R9). -/
abbrev bitsMax : Nat := 8

/-- `JEDEC_GLITCH` (R9): the extended length treated as a read glitch. -/
abbrev jedecGlitch : Byte := 0xFF

/-- The GPIO value of chip-select, "reset low, select low" (41_gpio_mux.md R115). -/
abbrev gpioSelect : Byte := 0x00

/-- The GPIO value of chip-deselect-only, "reset stays low" (R115). -/
abbrev gpioDeselect : Byte := 0x10

/-- The GPIO value of release-reset, "both lines high" (R115). -/
abbrev gpioRelease : Byte := 0x90

/-- `LAT_FAST` (R10, D29): OPEN in the spec, so it has no body and no statement knows its value. -/
opaque latFast : Byte

/-- `FLASH_SIZE` (R10, D11): OPEN; at most 2^24 bytes; no rule of the block reads it. -/
opaque flashSize : Fin (0x1000000 + 1)

end Config

/-- `BITS_ALIGN` (R10, D25): where the received bits of a bit transfer lie in the response byte. -/
inductive BitsAlign where
  | low
  | high
  deriving DecidableEq, Repr, Inhabited

/-- `BITS_ALIGN` is OPEN in the spec, so it has no body. -/
opaque Config.bitsAlign : BitsAlign

/-- What the transport answers to one write call (R14, R99). `full` is the count of all the bytes given; `count c pre`
is the count `c`, with `pre` the number of bytes the bridge received if the call failed (20_memory.md R61). -/
inductive WriteAns where
  | full
  | count (c : Int) (pre : Nat)
  deriving DecidableEq, Repr, Inhabited

/-- What the transport answers to one read call for one byte (R14): the negative count −(n+1), no byte available, or
one byte. "A count c > 1 cannot occur" (40_engine.md R100). -/
inductive ReadAns where
  | negative (n : Nat)
  | empty
  | byte (b : Byte)
  deriving DecidableEq, Repr, Inhabited

/-- What the transport answers to one control call (R14): success (with the value that `GET_LATENCY` returns; every
other call ignores it) or failure. -/
inductive CtrlAns where
  | success (v : Byte)
  | failure
  deriving DecidableEq, Repr, Inhabited

/-- The oracle's free answer to a write call beyond the answers the state holds (R8). No body. -/
opaque Config.freeWrite : Nat → WriteAns

/-- The oracle's free answer to a read call beyond the answers the state holds (R8). No body. -/
opaque Config.freeRead : Nat → ReadAns

/-- The oracle's free answer to a control call beyond the answers the state holds (R8). No body. -/
opaque Config.freeCtrl : Nat → CtrlAns

/-- The serial clock in Hz for a divisor once the divide-by-5 is on (70_reset_and_hazards.md R207, K17).
PRESUMED (the spec marks it general knowledge); nothing in the untimed model depends on it. safe. -/
def Config.serialClockHz (d : BitVec 16) : Nat := 60000000 / 5 / (2 * (1 + d.toNat))

end Sys2Proof
end

