-- ==== Sys2Proof/Syntax.lean ====
section
/-! DEFINITION. The instructions: one constructor per row of spec/opcode_table.json (30_encoding.md R73 to R79, R87,
R88, R94). Host requests are "typed requests"; they have no binary encoding (30_encoding.md, head). -/

namespace Sys2Proof

/-- A host buffer a request names (20_memory.md R47): `len` bytes of host memory from `base`. -/
structure Buf where
  base : Nat
  len : Nat
  deriving DecidableEq, Repr, Inhabited

/-- The `data` operand: "a byte list or a buffer" (R94). -/
inductive Data where
  | list (bs : Bytes)
  | buffer (b : Buf)
  deriving DecidableEq, Repr, Inhabited

/-- The 45 rows of the opcode table: eight link frames, eleven SPI transactions, twenty-six host requests. -/
inductive Instr where
  /-- LF-BO, the write-only byte frame (R73). -/
  | lfBo (payload : Bytes)
  /-- LF-BX, the full-duplex byte frame (R74). -/
  | lfBx (payload : Bytes)
  /-- LF-BITS, the full-duplex bit frame with K = k − 1 (R75). -/
  | lfBits (K : BitVec 3) (v : Byte)
  /-- LF-GSET, set-GPIO-low with direction 0x93 (R76). -/
  | lfGset (v : Byte)
  /-- LF-GRD, read-GPIO-low (R77). -/
  | lfGrdLow
  /-- LF-GRD, read-GPIO-high (R77). -/
  | lfGrdHigh
  /-- LF-CLK5, "enable slow internal clock divider" (R78). -/
  | lfClk5
  /-- LF-DIV, select clock divisor (R79). -/
  | lfDiv (d : BitVec 16)
  /-- S-OP 0x06 (R88, R130). -/
  | spiWriteEnable
  /-- S-ST 0x05 (R88, R129). -/
  | spiReadStatus1
  /-- S-WS 0x01 with status value 0x00 (R88, R140, R141). -/
  | spiWriteStatus
  /-- S-AW 0x02 (R88, R133). -/
  | spiPageProgram (addr : FlashAddr) (data : Bytes)
  /-- S-A 0xD8 (R88, R132). -/
  | spiBlockErase64K (addr : FlashAddr)
  /-- S-OP 0xC7 (R88, R131). -/
  | spiChipErase
  /-- S-OP 0xB9 (R88, R128). -/
  | spiPowerDown
  /-- S-OP 0xAB (R88, R127). -/
  | spiReleasePowerDown
  /-- S-ID 0x9F; the number of extended filler bytes is set by the response (R88, R142). -/
  | spiJedecId
  /-- S-AR 0x03 with n filler bytes (R88, R134). -/
  | spiReadData (addr : FlashAddr) (n : Nat)
  /-- S-RST, eight 0xFF bytes (R88, R126). -/
  | spiReset
  /-- `OPEN slow` (40_engine.md R97). -/
  | openReq (slow : Bool)
  /-- `CLOSE` (R109). -/
  | closeReq
  /-- `ABORT` (R111). -/
  | abortReq
  /-- `SEND op, data` (R101). -/
  | send (op : Byte) (data : Data)
  /-- `XFER op, buf, n` (R103). -/
  | xfer (op : Byte) (buf : Buf) (n : Nat)
  /-- `XBITS v, k` (R105). -/
  | xbits (v : Byte) (k : Nat)
  /-- `SET_GPIO v, d` (R106). -/
  | setGpio (v d : Byte)
  /-- `RDGPIOL` (R107). -/
  | rdGpioL
  /-- `RDGPIOH` (R108). -/
  | rdGpioH
  /-- `SELECT` (41_gpio_mux.md R116). -/
  | select
  /-- `DESELECT` (R117). -/
  | deselect
  /-- `RELEASE` (R118). -/
  | release
  /-- `BSEND data[, n]` (R120). -/
  | bsend (data : Data) (n : Option Nat)
  /-- `BXFER buf[, n]` (R121). -/
  | bxfer (buf : Buf) (n : Option Nat)
  /-- `FRESET` (42_flash_commands.md R126). -/
  | freset
  /-- `FPUP` (R127). -/
  | fpup
  /-- `FPDN` (R128). -/
  | fpdn
  /-- `RDSR` (R129). -/
  | rdsr
  /-- `WREN` (R130). -/
  | wren
  /-- `CE` (R131). -/
  | ce
  /-- `BE64K addr` (R132). -/
  | be64k (addr : Nat)
  /-- `PP addr, data, n` (R133). -/
  | pp (addr : Nat) (data : Data) (n : Nat)
  /-- `READ addr, buf, n` (R134). -/
  | read (addr : Nat) (buf : Buf) (n : Nat)
  /-- `WAITBUSY` (43_status_poll_jedec.md R137). -/
  | waitBusy
  /-- `DISPROT` (R140). -/
  | disProt
  /-- `RDID` (R142). -/
  | rdId
  deriving DecidableEq, Repr, Inhabited

end Sys2Proof
end

