-- ==== Sys2Proof/WellFormed.lean ====
section
/-! DEFINITION. Which instructions are well formed: the operand ranges the encodings of 30_encoding.md admit. -/

namespace Sys2Proof

/-- The operand ranges of the encodings. A link frame's byte count is 1 to 65536 (R73, R74); an SPI page program stays
inside one page (20_memory.md R56); an SPI read clocks at most 65536 bytes (R58). A host request is typed and has no
encoding, and the spec answers every operand value of it (with a fault where it must), so each is well formed. -/
def Instr.wf : Instr → Bool
  | .lfBo p => decide (1 ≤ p.length ∧ p.length ≤ Config.maxFrame)
  | .lfBx p => decide (1 ≤ p.length ∧ p.length ≤ Config.maxFrame)
  | .lfBits _ _ => true
  | .lfGset _ => true
  | .lfGrdLow => true
  | .lfGrdHigh => true
  | .lfClk5 => true
  | .lfDiv _ => true
  | .spiWriteEnable => true
  | .spiReadStatus1 => true
  | .spiWriteStatus => true
  | .spiPageProgram a d => decide (a.toNat % Config.pageSize + d.length ≤ Config.pageSize)
  | .spiBlockErase64K _ => true
  | .spiChipErase => true
  | .spiPowerDown => true
  | .spiReleasePowerDown => true
  | .spiJedecId => true
  | .spiReadData _ n => decide (n ≤ Config.maxFrame)
  | .spiReset => true
  | .openReq _ => true
  | .closeReq => true
  | .abortReq => true
  | .send _ _ => true
  | .xfer _ _ _ => true
  | .xbits _ _ => true
  | .setGpio _ _ => true
  | .rdGpioL => true
  | .rdGpioH => true
  | .select => true
  | .deselect => true
  | .release => true
  | .bsend _ _ => true
  | .bxfer _ _ => true
  | .freset => true
  | .fpup => true
  | .fpdn => true
  | .rdsr => true
  | .wren => true
  | .ce => true
  | .be64k _ => true
  | .pp _ _ _ => true
  | .read _ _ _ => true
  | .waitBusy => true
  | .disProt => true
  | .rdId => true

end Sys2Proof
end

