-- ==== Sys2Proof/Decode.lean ====
section
/-! DEFINITION. The encodings of 30_encoding.md: the byte-splitting functions (00_scope.md R13), the decoder of link
frames (R80) and of SPI transactions (R87, R88), the encoder, and the reading of the opcode table's words. -/

namespace Sys2Proof

/-- `lo8(x) = x[7:0]` (R13). -/
def lo8 (x : Nat) : Byte := BitVec.ofNat 8 x

/-- `hi8(x) = x[15:8]` (R13). -/
def hi8 (x : Nat) : Byte := BitVec.ofNat 8 (x / 256)

/-- `zeros(n)` (R12). -/
def zeros (n : Nat) : Bytes := List.replicate n 0

/-- `A2(a), A1(a), A0(a)`: the address as three bytes, most significant first (R13, R50, R85). -/
def addrBytes (a : FlashAddr) : Bytes :=
  [BitVec.ofNat 8 (a.toNat / 65536), BitVec.ofNat 8 (a.toNat / 256), BitVec.ofNat 8 a.toNat]

/-- The address that three bytes name, most significant first (R50). -/
def addrOfBytes (a2 a1 a0 : Byte) : FlashAddr :=
  BitVec.ofNat 24 (a2.toNat * 65536 + a1.toNat * 256 + a0.toNat)

/-- A 16-bit value from its little-endian bytes (R48, R49). -/
def le16 (lo hi : Byte) : Nat := lo.toNat + 256 * hi.toNat

/-- The header of a byte frame of n ≥ 1 bytes: opcode, then the length field n − 1 little-endian (R48, R73, R82). -/
def byteHeader (op : Byte) (n : Nat) : Bytes := [op, lo8 (n - 1), hi8 (n - 1)]

/-- The divisor frame LF-DIV (R49, R79). -/
def divFrame (d : BitVec 16) : Bytes := [0x86, lo8 d.toNat, hi8 d.toNat]

/-- The divisor `OPEN slow` selects (R83, R97). -/
def divisorOf (slow : Bool) : BitVec 16 := if slow then Config.divSlow else Config.divFull

/-- Why bytes are no instruction. -/
inductive DecodeErr where
  /-- There is no byte. -/
  | empty
  /-- The first byte is neither one of the eight link opcodes (R80, R90) nor one of the eleven SPI opcodes (R88). -/
  | opcode (b : Byte)
  /-- The bytes end before the frame or transaction does. -/
  | truncated
  /-- An operand byte has a value the row's encoding does not admit. -/
  | operand
  /-- Bytes follow the end of an SPI transaction, which is the whole chip-select window (R87). -/
  | trailing
  deriving DecidableEq, Repr, Inhabited

/-- What the decoder answers: an instruction and the bytes after it, or a reason. -/
inductive Decoded where
  | ok (i : Instr) (rest : Bytes)
  | bad (e : DecodeErr)
  deriving DecidableEq, Repr, Inhabited

/-- The rest of a byte frame: the length field L and then L + 1 payload bytes (R80, R82). -/
def decodeByteFrame (mk : Bytes → Instr) : Bytes → Decoded
  | l :: h :: p =>
    if p.length < le16 l h + 1 then .bad .truncated
    else .ok (mk (p.take (le16 l h + 1))) (p.drop (le16 l h + 1))
  | _ => .bad .truncated

/-- The rest of a bit frame: K = k − 1 in 0..7, then V (R75, R86). -/
def decodeBits : Bytes → Decoded
  | k :: v :: rest => if k.toNat < 8 then .ok (.lfBits (BitVec.ofNat 3 k.toNat) v) rest else .bad .operand
  | _ => .bad .truncated

/-- The rest of a set-GPIO frame: VAL, then DIR = 0x93 (R76). -/
def decodeGset : Bytes → Decoded
  | v :: d :: rest => if d = Config.gpioDirMask then .ok (.lfGset v) rest else .bad .operand
  | _ => .bad .truncated

/-- The rest of a divisor frame: 16 bits, little-endian (R79). -/
def decodeDiv : Bytes → Decoded
  | l :: h :: rest => .ok (.lfDiv (BitVec.ofNat 16 (le16 l h))) rest
  | _ => .bad .truncated

/-- An SPI transaction whose bytes after the opcode are exactly `want` (R87). -/
def decodeExact (i : Instr) (want : Bytes) (r : Bytes) : Decoded :=
  if r = want then .ok i []
  else if r.length < want.length then .bad .truncated
  else if r.take want.length = want then .bad .trailing
  else .bad .operand

/-- Format S-AW: three address bytes, then the data to the end of the transaction (R87, R56). -/
def decodePageProgram : Bytes → Decoded
  | a2 :: a1 :: a0 :: d =>
    if (Instr.spiPageProgram (addrOfBytes a2 a1 a0) d).wf then .ok (.spiPageProgram (addrOfBytes a2 a1 a0) d) []
    else .bad .operand
  | _ => .bad .truncated

/-- Format S-A: three address bytes (R87). -/
def decodeBlockErase : Bytes → Decoded
  | [a2, a1, a0] => .ok (.spiBlockErase64K (addrOfBytes a2 a1 a0)) []
  | _ :: _ :: _ :: _ :: _ => .bad .trailing
  | _ => .bad .truncated

/-- Format S-AR: three address bytes, then n filler bytes 0x00 (R87). -/
def decodeReadData : Bytes → Decoded
  | a2 :: a1 :: a0 :: z =>
    if z = zeros z.length ∧ z.length ≤ Config.maxFrame then .ok (.spiReadData (addrOfBytes a2 a1 a0) z.length) []
    else .bad .operand
  | _ => .bad .truncated

/-- Format S-ID: four filler bytes, then the L ≤ 254 filler bytes of the extended read, whose number the response sets
(R87, R144). -/
def decodeJedec (r : Bytes) : Decoded :=
  if r.length < 4 then .bad .truncated
  else if r = zeros r.length ∧ r.length ≤ 4 + 254 then .ok .spiJedecId []
  else .bad .operand

/-- The decoder: the first byte alone determines the format (R71, R80, R88). The eight link opcodes and the eleven SPI
opcodes are nineteen different bytes. -/
def decode : Bytes → Decoded
  | [] => .bad .empty
  | op :: r =>
    if op = 0x11 then decodeByteFrame .lfBo r
    else if op = 0x31 then decodeByteFrame .lfBx r
    else if op = 0x33 then decodeBits r
    else if op = 0x80 then decodeGset r
    else if op = 0x81 then .ok .lfGrdLow r
    else if op = 0x83 then .ok .lfGrdHigh r
    else if op = 0x8B then .ok .lfClk5 r
    else if op = 0x86 then decodeDiv r
    else if op = 0x06 then decodeExact .spiWriteEnable [] r
    else if op = 0x05 then decodeExact .spiReadStatus1 [0x00] r
    else if op = 0x01 then decodeExact .spiWriteStatus [0x00] r
    else if op = 0x02 then decodePageProgram r
    else if op = 0xD8 then decodeBlockErase r
    else if op = 0xC7 then decodeExact .spiChipErase [] r
    else if op = 0xB9 then decodeExact .spiPowerDown [] r
    else if op = 0xAB then decodeExact .spiReleasePowerDown [] r
    else if op = 0x9F then decodeJedec r
    else if op = 0x03 then decodeReadData r
    else if op = 0xFF then decodeExact .spiReset (List.replicate 7 0xFF) r
    else .bad (.opcode op)

/-- The bytes of a link frame (R73 to R79) or of an SPI transaction (R87); a host request has no binary encoding. -/
def encode : Instr → Option Bytes
  | .lfBo p => some (byteHeader 0x11 p.length ++ p)
  | .lfBx p => some (byteHeader 0x31 p.length ++ p)
  | .lfBits K v => some [0x33, BitVec.ofNat 8 K.toNat, v]
  | .lfGset v => some [0x80, v, Config.gpioDirMask]
  | .lfGrdLow => some [0x81]
  | .lfGrdHigh => some [0x83]
  | .lfClk5 => some [0x8B]
  | .lfDiv d => some (divFrame d)
  | .spiWriteEnable => some [0x06]
  | .spiReadStatus1 => some [0x05, 0x00]
  | .spiWriteStatus => some [0x01, 0x00]
  | .spiPageProgram a d => some (0x02 :: addrBytes a ++ d)
  | .spiBlockErase64K a => some (0xD8 :: addrBytes a)
  | .spiChipErase => some [0xC7]
  | .spiPowerDown => some [0xB9]
  | .spiReleasePowerDown => some [0xAB]
  | .spiJedecId => some [0x9F, 0x00, 0x00, 0x00, 0x00]
  | .spiReadData a n => some (0x03 :: addrBytes a ++ zeros n)
  | .spiReset => some (List.replicate Config.resetFfCount 0xFF)
  | .openReq _ => none
  | .closeReq => none
  | .abortReq => none
  | .send _ _ => none
  | .xfer _ _ _ => none
  | .xbits _ _ => none
  | .setGpio _ _ => none
  | .rdGpioL => none
  | .rdGpioH => none
  | .select => none
  | .deselect => none
  | .release => none
  | .bsend _ _ => none
  | .bxfer _ _ => none
  | .freset => none
  | .fpup => none
  | .fpdn => none
  | .rdsr => none
  | .wren => none
  | .ce => none
  | .be64k _ => none
  | .pp _ _ _ => none
  | .read _ _ _ => none
  | .waitBusy => none
  | .disProt => none
  | .rdId => none

/-- The n bytes of a table word, first byte most significant: spec/98_reader.md reads a row's pattern "as one number
with bit 0 its least significant bit" (log 12). -/
def wordBytes (w : Nat) : Nat → Bytes
  | 0 => []
  | n + 1 => BitVec.ofNat 8 (w / 256 ^ n) :: wordBytes w n

/-- The length in bytes of the instruction that starts with `bs`, bytes not given being zero (R80, R87). -/
def fullLength (bs : Bytes) : Nat :=
  let op := bs.getD 0 0
  if op = 0x11 ∨ op = 0x31 then 3 + (le16 (bs.getD 1 0) (bs.getD 2 0) + 1)
  else if op = 0x33 ∨ op = 0x80 ∨ op = 0x86 then 3
  else if op = 0x05 ∨ op = 0x01 then 2
  else if op = 0x02 ∨ op = 0x03 ∨ op = 0xD8 then 4
  else if op = 0x9F then 5
  else if op = 0xFF then 8
  else 1

/-- `bs` up to the instruction's length: operand bytes the table gives no bits are zero; the reset transaction has no
operand, its eight bytes are all 0xFF (R87; log 12). -/
def padWord (bs : Bytes) : Bytes :=
  bs ++ List.replicate (fullLength bs - bs.length) (if bs.getD 0 0 = 0xFF then 0xFF else 0x00)

/-- The bytes of the opcode-table word `w` of `nbits` bits. -/
def tableBytes (nbits w : Nat) : Bytes := padWord (wordBytes w ((nbits + 7) / 8))

/-- The instruction the decoder reads from the opcode-table word `w` of `nbits` bits. -/
def decodeTableWord (nbits w : Nat) : Option Instr :=
  match decode (tableBytes nbits w) with
  | .ok i [] => some i
  | .ok _ (_ :: _) => none
  | .bad _ => none

end Sys2Proof
end

