-- ==== Sys2Proof/Machine/State.lean ====
section
/-! DEFINITION. The state of the block (10_state.md R18), the spaces and agents around it that the spec names, the
machine's stops, and block reset (70_reset_and_hazards.md R188). -/

namespace Sys2Proof.Machine

/-- `SESSION` (R21): FAILED encodes "fatal to the current session". -/
inductive Session where
  | closed
  | opened
  | failed
  deriving DecidableEq, Repr, Inhabited

/-- `FLASH_PWR` (R35): the last power command sent to the flash. -/
inductive FlashPwr where
  | unknown
  | up
  | down
  deriving DecidableEq, Repr, Inhabited

/-- The one error class the block raises (60_exceptions.md R164). -/
inductive ErrClass where
  | hardwareError
  deriving DecidableEq, Repr, Inhabited

/-- The cause codes of R165. -/
inductive Cause where
  | ctrlFail
  | shortWrite
  | readNeg
  | pollBound
  | busyBound
  deriving DecidableEq, Repr, Inhabited

/-- The layer codes of R166: the family of the request the host issued. -/
inductive Layer where
  | engine
  | bus
  | flash
  deriving DecidableEq, Repr, Inhabited

/-- What `ERR` latches: (class, cause, layer) (R36, R167, R177). -/
structure ErrRec where
  cls : ErrClass
  cause : Cause
  layer : Layer
  deriving DecidableEq, Repr, Inhabited

/-- The records of `WARNLOG` (R37, R174). -/
inductive Warning where
  | jedecFF
  | protNotCleared (sr : Byte)
  | unexpectedRx (b : Byte)
  deriving DecidableEq, Repr, Inhabited

/-- The bit modes the block asks the transport for (R97, R109). -/
inductive BitMode where
  | mpsse
  | reset
  deriving DecidableEq, Repr, Inhabited

/-- The transport control calls (00_scope.md R14). -/
inductive CtrlOp where
  | acquire
  | resetDevice
  | purge
  | getLatency
  | setLatency (v : Byte)
  | setBitmode (mask : Byte) (mode : BitMode)
  | release
  deriving DecidableEq, Repr, Inhabited

/-- The result of a control call as `TXLOG` records it (R38). -/
inductive CtrlResult where
  | success
  | latency (v : Byte)
  | failure
  deriving DecidableEq, Repr, Inhabited

/-- The idle waits by their parameter names (R10, R208); they take no model time. -/
inductive IdleKind where
  | rx
  | status
  | settleA
  | settleB
  deriving DecidableEq, Repr, Inhabited

/-- The link events of `TXLOG` (R38). `write bs c got` is `Write(bs, c)`; `got` is how many of the bytes the bridge
received: all of them on success, any number up to all of them on failure (20_memory.md R61). -/
inductive LinkEvent where
  | write (bs : Bytes) (c : Int) (got : Nat)
  | read (a : ReadAns)
  | ctrl (op : CtrlOp) (r : CtrlResult)
  | idle (t : IdleKind)
  deriving DecidableEq, Repr, Inhabited

/-- The fault codes `F_x` of R172: refusals of a request after which the host may issue another. -/
inductive FCode where
  | session
  | linkOp
  | len
  | buf
  | bits
  | gpioDir
  | csOrder
  | addr
  | pageCross
  | unsafeClose
  | undefined
  deriving DecidableEq, Repr, Inhabited

/-- What a request returns to the host when it is done (R163). -/
inductive Result where
  | unit
  | byte (b : Byte)
  | bytes (bs : Bytes)
  | jedec (mfr dev0 dev1 extlen : Byte) (ext : Bytes)
  deriving DecidableEq, Repr, Inhabited

/-- How the latest request ended (R163): done, raised or faulted; `none` before the first. -/
inductive Answer where
  | none
  | done (r : Result)
  | raised (e : ErrRec)
  | faulted (f : FCode)
  deriving DecidableEq, Repr, Inhabited

/-- SPRL (43_status_poll_jedec.md R136). -/
inductive LockState where
  | unlocked
  | locked
  deriving DecidableEq, Repr, Inhabited

/-- SPM (R136). -/
inductive ProgramMode where
  | bytePage
  | sequential
  deriving DecidableEq, Repr, Inhabited

/-- EPE (R136). -/
inductive EraseProgram where
  | success
  | error
  deriving DecidableEq, Repr, Inhabited

/-- WPP (R136). -/
inductive WpPin where
  | asserted
  | deasserted
  deriving DecidableEq, Repr, Inhabited

/-- SWP, the protection range code (R136). -/
inductive ProtRange where
  | none
  | some
  | reserved
  | all
  deriving DecidableEq, Repr, Inhabited

/-- The status fields as `VERBOSE` reports them (R32, R136), in the source's order. -/
structure StatusReport where
  lock : LockState
  mode : ProgramMode
  epe : EraseProgram
  wpp : WpPin
  range : ProtRange
  wel : Bool
  busy : Bool
  deriving DecidableEq, Repr, Inhabited

/-- The parameters of R10 that change what a request does, and the model's loop bound. No request writes them. -/
structure Options where
  /-- `VERBOSE`. -/
  verbose : Bool
  /-- `POLL_BOUND`; `none` is ∞. -/
  pollBound : Option Nat
  /-- `BUSY_BOUND`; `none` is ∞. -/
  busyBound : Option Nat
  /-- The MODEL's own: how many further turns of one unbounded loop are followed before the hang of R175 is reported. -/
  fuel : Nat
  deriving DecidableEq, Repr, Inhabited

/-- One item of the host's request stream (R20, 20_memory.md R69): a typed request, or bytes of a link frame or SPI
transaction that the decoder reads (log 9). -/
inductive HostItem where
  | request (i : Instr)
  | bytes (bs : Bytes)
  deriving DecidableEq, Repr, Inhabited

/-- Host memory, which holds the buffers (R47): byte cells by address. -/
abbrev Memory := List Host.Cell

/-- The machine's state. The first twenty-one fields are the registers of R18, `none` being ⊥ ("holds no value"); the
others are the spaces and agents around the block and the model's own two counters (`drawn`, `opts.fuel`). -/
structure State where
  session : Session
  handle : Bool
  latSaved : Option Byte
  latCaptured : Bool
  slow : Option Bool
  clkdiv : Option (BitVec 16)
  gpioVal : Option Byte
  gpioDir : Option Byte
  gpioInLo : Option Byte
  gpioInHi : Option Byte
  bitsIn : Option Byte
  status : Option Byte
  dbcnt : Fin 3
  jedecMfr : Option Byte
  jedecDev : Option (Byte × Byte)
  jedecExtlen : Option Byte
  jedecExt : Option Bytes
  flashPwr : FlashPwr
  err : Option ErrRec
  warnlog : List Warning
  txlog : List LinkEvent
  /-- The host's buffers (R47). -/
  mem : Memory
  /-- The host's requests not yet taken (R20). -/
  queue : List HostItem
  /-- The answers the transport will give to the next write calls (R8). -/
  writes : List WriteAns
  /-- The answers to the next read calls. -/
  reads : List ReadAns
  /-- The answers to the next control calls. -/
  ctrls : List CtrlAns
  /-- The MODEL's own: how many free answers have been drawn. -/
  drawn : Nat
  /-- How the latest request ended (R163). -/
  answer : Answer
  /-- The status reports logged under `VERBOSE` (R136). -/
  reports : List StatusReport
  /-- The parameters (R10). -/
  opts : Options
  deriving DecidableEq, Repr, Inhabited

/-- The machine's stops. -/
inductive Fault where
  /-- A request hangs (60_exceptions.md R175): its receive loop, busy wait or drain ran out of the model's fuel. Raised
  by every request that reads. safe: "a model with bounded execution (fuel) reports running out of fuel as distinct
  from every other outcome". -/
  | hung
  deriving DecidableEq, Repr, Inhabited

/-- What the machine has no meaning for. -/
inductive Refusal where
  /-- An instruction whose meaning is not written yet; raised by exec's arm. safe. -/
  | notModelled (mnemonic : String)
  /-- Bytes that are no instruction; raised by step when the decoder refuses them. safe. -/
  | undecodable (e : DecodeErr)
  /-- A divisor frame that the block never emits: "No other value is emitted" (30_encoding.md R83); raised by LF-DIV.
  safe. -/
  | divisorNotEmitted (d : BitVec 16)
  deriving DecidableEq, Repr, Inhabited

/-- The parameters at their defaults (R10). The fuel is the model's own: DESIGN CHOICE (log 4), safe. -/
def Options.default : Options where
  verbose := false
  pollBound := none
  busyBound := none
  fuel := 4294967296

/-- Block reset (R188, the reset column of R18). It makes no link event. The fields around the block are empty: DESIGN
CHOICE (logs 3, 7, 17, 19). -/
def State.reset : State where
  session := .closed
  handle := false
  latSaved := none
  latCaptured := false
  slow := none
  clkdiv := none
  gpioVal := none
  gpioDir := none
  gpioInLo := none
  gpioInHi := none
  bitsIn := none
  status := none
  dbcnt := 0
  jedecMfr := none
  jedecDev := none
  jedecExtlen := none
  jedecExt := none
  flashPwr := .unknown
  err := none
  warnlog := []
  txlog := []
  mem := []
  queue := []
  writes := []
  reads := []
  ctrls := []
  drawn := 0
  answer := .none
  reports := []
  opts := Options.default

end Sys2Proof.Machine
end

