-- ==== Sys2Proof/Machine/Ops.lean ====
section
/-! DEFINITION. The primitives of 00_scope.md R14: host memory, the outcomes of a request's pseudocode, transport calls,
the receive loop, `raise` (the trap entry, R167, R177) and the abort that returns from it (R111, R178). -/

namespace Sys2Proof.Machine

/-! Host memory. -/

/-- What a byte of host memory that nothing has written reads as: DESIGN CHOICE 0x00 (log 7), unsafe. -/
def memDefault : Byte := 0x00

/-- One byte of host memory. -/
def memRead : Memory → Nat → Byte
  | [], _ => memDefault
  | (k, v) :: r, a => if k = a then v else memRead r a

/-- Write one byte of host memory, keeping the canonical form. -/
def memWrite : Memory → Nat → Byte → Memory
  | [], a, b => if b = memDefault then [] else [(a, b)]
  | (k, v) :: r, a, b =>
    if a < k then (if b = memDefault then (k, v) :: r else (a, b) :: (k, v) :: r)
    else if a = k then (if b = memDefault then r else (a, b) :: r)
    else (k, v) :: memWrite r a b

/-- The canonical form: addresses strictly rising, and no cell equal to what an unlisted address reads as. -/
def Memory.wf : Memory → Bool
  | [] => true
  | [(_, v)] => decide (v ≠ memDefault)
  | (k, v) :: (k', v') :: r => decide (v ≠ memDefault) && decide (k < k') && Memory.wf ((k', v') :: r)

/-- `MemRead(buf, 0, n)` of the bytes from `a` (R14). -/
def readBytes (m : Memory) (a : Nat) : Nat → Bytes
  | 0 => []
  | n + 1 => memRead m a :: readBytes m (a + 1) n

/-- `MemWrite` of the bytes `bs` from `a` on (R14). -/
def writeBytes (m : Memory) (a : Nat) : Bytes → Memory
  | [] => m
  | b :: bs => writeBytes (memWrite m a b) (a + 1) bs

/-! Logs and named updates. -/

/-- Append a link event to `TXLOG` (R38). -/
def State.log (s : State) (e : LinkEvent) : State := { s with txlog := s.txlog ++ [e] }

/-- `warn W_x`: append to `WARNLOG` (R14, R37, R174). -/
def State.warn (s : State) (w : Warning) : State := { s with warnlog := s.warnlog ++ [w] }

/-- Log a status report (R136). -/
def State.report (s : State) (r : StatusReport) : State := { s with reports := s.reports ++ [r] }

/-- Hand the request's outcome to the host (R163). -/
def State.reply (s : State) (a : Answer) : State := { s with answer := a }

/-- Store one byte into the host buffer a transfer fills, if it fills one. -/
def State.store (s : State) (dst : Option Nat) (i : Nat) (b : Byte) : State :=
  match dst with
  | none => s
  | some base => { s with mem := memWrite s.mem (base + i) b }

/-! The outcomes of pseudocode. -/

/-- How a piece of pseudocode ends (R163): it goes on, raises a cause (R167), faults (R171), or hangs (R175). -/
inductive Res (α : Type) where
  | ok (a : α) (s : State)
  | raised (c : Cause) (s : State)
  | faulted (f : FCode) (s : State)
  | hung

/-- Sequencing (R15): the rest runs only if the first part goes on. -/
def Res.bind {α β : Type} (r : Res α) (k : α → State → Res β) : Res β :=
  match r with
  | .ok a s => k a s
  | .raised c s => .raised c s
  | .faulted f s => .faulted f s
  | .hung => .hung

/-- `raise HardwareError(cause)` (R167): the block's trap entry. `ERR` saves (class, cause, layer), `SESSION` becomes
FAILED, and the error is returned to the host, which is the handler (R177). -/
def raiseError (c : Cause) (l : Layer) (s : State) : State :=
  { s with
    err := some ⟨.hardwareError, c, l⟩
    session := .failed
    answer := .raised ⟨.hardwareError, c, l⟩ }

/-- The end of a host-issued request of layer `l` (R163, R166). A fault leaves `SESSION` and `ERR` unchanged and the
host may issue another request (R171), so it is a next state (log 1). -/
def conclude {α : Type} (l : Layer) (ret : α → Result) (r : Res α) : Host.Outcome State Fault Refusal :=
  match r with
  | .ok a s => .next (s.reply (.done (ret a)))
  | .raised c s => .next (raiseError c l s)
  | .faulted f s => .next (s.reply (.faulted f))
  | .hung => .fault .hung

/-! Transport calls. -/

/-- The oracle's answer to a write call: the next one held, else a free one (R8). -/
def drawWrite (s : State) : WriteAns × State :=
  match s.writes with
  | a :: r => (a, { s with writes := r })
  | [] => (Config.freeWrite s.drawn, { s with drawn := s.drawn + 1 })

/-- The oracle's answer to a read call (R8). -/
def drawRead (s : State) : ReadAns × State :=
  match s.reads with
  | a :: r => (a, { s with reads := r })
  | [] => (Config.freeRead s.drawn, { s with drawn := s.drawn + 1 })

/-- The oracle's answer to a control call (R8). -/
def drawCtrl (s : State) : CtrlAns × State :=
  match s.ctrls with
  | a :: r => (a, { s with ctrls := r })
  | [] => (Config.freeCtrl s.drawn, { s with drawn := s.drawn + 1 })

/-- The count of a write answer for a call of `len` bytes. -/
def countOf (len : Nat) : WriteAns → Int
  | .full => len
  | .count c _ => c

/-- How many of the `len` bytes the bridge received: all on success, any number up to `len` on failure (R61). -/
def gotOf (len : Nat) : WriteAns → Nat
  | .full => len
  | .count c pre => if c = len then len else min pre len

/-- `TxWrite(bs)` (R14, R99): any count other than `len(bs)` raises `HW_SHORT_WRITE`. -/
def txWrite (bs : Bytes) (s : State) : Res Unit :=
  let c := countOf bs.length (drawWrite s).1
  let t := (drawWrite s).2.log (.write bs c (gotOf bs.length (drawWrite s).1))
  if c = bs.length then .ok () t else .raised .shortWrite t

/-- `RxRead1()` (R14). -/
def rxRead1 (s : State) : ReadAns × State :=
  ((drawRead s).1, (drawRead s).2.log (.read (drawRead s).1))

/-- The result `TXLOG` records for a control call. -/
def ctrlResult : CtrlOp → CtrlAns → CtrlResult
  | .getLatency, .success v => .latency v
  | .acquire, .success _ => .success
  | .resetDevice, .success _ => .success
  | .purge, .success _ => .success
  | .setLatency _, .success _ => .success
  | .setBitmode _ _, .success _ => .success
  | .release, .success _ => .success
  | _, .failure => .failure

/-- `Ctrl(op)` without a check: the answer and the state after the call. -/
def ctrlCall (op : CtrlOp) (s : State) : CtrlAns × State :=
  ((drawCtrl s).1, (drawCtrl s).2.log (.ctrl op (ctrlResult op (drawCtrl s).1)))

/-- `Ctrl(op)` whose failure raises `HW_CTRL_FAIL` (R97, R109, R165). -/
def ctrl (op : CtrlOp) (s : State) : Res Byte :=
  match ctrlCall op s with
  | (.success v, t) => .ok v t
  | (.failure, t) => .raised .ctrlFail t

/-- Whether a bound that may be ∞ is reached after `n` polls (R100, R137). -/
def boundReached : Option Nat → Nat → Bool
  | none, _ => false
  | some b, n => decide (b ≤ n)

/-- How many turns of a loop that R175 names are followed: with a finite bound, enough to reach it, so that the loop ends
as R100 or R137 says and never hangs; with none, `fuel` + 1, after which the hang of R175 is reported (log 4). -/
def turns (bound : Option Nat) (fuel : Nat) : Nat :=
  match bound with
  | none => Nat.succ fuel
  | some b => Nat.succ b

/-- The loop of `RECV1` (R100) after `polls` empty polls, followed for `fuel` turns; out of fuel it hangs (R175). -/
def recvLoop : Nat → Nat → State → Res Byte
  | 0, _, _ => .hung
  | fuel + 1, polls, s =>
    match rxRead1 s with
    | (.byte b, t) => .ok b t
    | (.negative _, t) => .raised .readNeg t
    | (.empty, t) =>
      if boundReached t.opts.pollBound (polls + 1) then .raised .pollBound t
      else recvLoop fuel (polls + 1) (t.log (.idle .rx))

/-- `RECV1()` (R100). -/
def recv1 (s : State) : Res Byte := recvLoop (turns s.opts.pollBound s.opts.fuel) 0 s

/-- `for i: MemWrite(buf, i, 1, RECV1())` (R103): `n` bytes from index `i` on, stored one by one into the buffer at
`dst` if there is one, and returned in order. -/
def recvMany (dst : Option Nat) : Nat → Nat → State → Res Bytes
  | 0, _, s => .ok [] s
  | n + 1, i, s =>
    (recv1 s).bind fun b t =>
      (recvMany dst n (i + 1) (t.store dst i b)).bind fun bs u => .ok (b :: bs) u

/-! The abort (R111), which returns from the trap (R178). -/

/-- The loop of `DRAIN()` (R112), followed for `fuel` turns; out of fuel it hangs (R175). -/
def drainLoop : Nat → State → Res Unit
  | 0, _ => .hung
  | fuel + 1, s =>
    match rxRead1 s with
    | (.byte b, t) => drainLoop fuel (t.warn (.unexpectedRx b))
    | (.negative _, t) => .ok () t
    | (.empty, t) => .ok () t

/-- `DRAIN()` (R112). -/
def drain (s : State) : Res Unit := drainLoop (turns none s.opts.fuel) s

/-- `if LAT_CAPTURED = 1: Ctrl(SET_LATENCY(LAT_SAVED))`, result ignored (R111). With nothing saved there is nothing to
restore and no error: "Errors: none" (log 14). -/
def restoreLatency (s : State) : State :=
  match s.latCaptured, s.latSaved with
  | true, some v => (ctrlCall (.setLatency v) s).2
  | true, none => s
  | false, _ => s

/-- `ABORT` (R111): every failure inside is ignored; `ERR` is kept. -/
def abortOp (s : State) : Res Unit :=
  if s.handle then
    (drain s).bind fun _ t =>
      .ok () { (ctrlCall .release (restoreLatency t)).2 with
        handle := false, latCaptured := false, session := .closed }
  else .ok () { s with latCaptured := false, session := .closed }

end Sys2Proof.Machine
end

