-- ==== Sys2Proof/Machine/Operands.lean ====
section
/-! DEFINITION. The operand forms of the requests (30_encoding.md R94): data that is a byte list or a buffer, host
buffers, the optional length, 24-bit addresses. -/

namespace Sys2Proof.Machine

/-- `MemRead(buf, 0, n)` (R14, R47). -/
def bufRead (b : Buf) (n : Nat) (m : Memory) : Bytes := readBytes m b.base n

/-- The bytes of a `data` operand: "a byte list or a buffer" (R94). -/
def dataBytes (d : Data) (m : Memory) : Bytes :=
  match d with
  | .list bs => bs
  | .buffer b => bufRead b b.len m

/-- The optional length `[, n]` of `BSEND`: by default `len(data)` (R120). -/
def dataCount (n : Option Nat) (bs : Bytes) : Nat := n.getD bs.length

/-- The optional length `[, n]` of `BXFER`: by default `len(buf)` (R121). -/
def bufCount (n : Option Nat) (b : Buf) : Nat := n.getD b.len

/-- An address operand below 2^24 as the 24-bit address it is (R59). -/
def addrOf (a : Nat) : FlashAddr := BitVec.ofNat 24 a

/-- The SPI header of an addressed command: opcode, then the address, most significant byte first (R50, R87). -/
def spiHeader (op : Byte) (a : FlashAddr) : Bytes := op :: addrBytes a

/-- `(addr mod 256) + n > 256` (R56, R133). -/
def crossesPage (a n : Nat) : Bool := decide (Config.pageSize < a % Config.pageSize + n)

/-- The bits of `v` a bit transfer of `k` bits clocks out, in order: v[7] down to v[8−k] (R51, R105). -/
def bitsOut (v : Byte) (k : Nat) : List Bool := (List.range k).map fun i => v.getLsbD (7 - i)

end Sys2Proof.Machine
end

