-- ==== Sys2Proof/Machine/Flags.lean ====
section
/-! DEFINITION. The block has no flags (00_scope.md R16). This file holds the fields of its status and GPIO bytes, the
signals derived from them (10_state.md R28, R29, R32; 43_status_poll_jedec.md R136), and the numeric codes of
60_exceptions.md R165 and R166. -/

namespace Sys2Proof.Machine

/-- BUSY = bit 0, 1 = busy (R32, R136). -/
def statusBusy (sr : Byte) : Bool := sr.getLsbD 0

/-- WEL = bit 1 (R32). -/
def statusWel (sr : Byte) : Bool := sr.getLsbD 1

/-- SWP = bits 3:2 (R32). -/
def statusSwp (sr : Byte) : BitVec 2 := sr.extractLsb' 2 2

/-- WPP = bit 4 (R32). -/
def statusWpp (sr : Byte) : Bool := sr.getLsbD 4

/-- EPE = bit 5 (R32). -/
def statusEpe (sr : Byte) : Bool := sr.getLsbD 5

/-- SPM = bit 6 (R32). -/
def statusSpm (sr : Byte) : Bool := sr.getLsbD 6

/-- SPRL = bit 7 (R32). -/
def statusSprl (sr : Byte) : Bool := sr.getLsbD 7

/-- The report text of SWP (R136). PRESUMED (K16; log 25), safe: log output only. -/
def protRange (c : BitVec 2) : ProtRange :=
  if c = 0 then .none else if c = 1 then .some else if c = 2 then .reserved else .all

/-- The fields of `STATUS` as reported (R136). Every polarity but BUSY's is PRESUMED (K16; log 25), safe. -/
def statusReport (sr : Byte) : StatusReport where
  lock := if statusSprl sr then .locked else .unlocked
  mode := if statusSpm sr then .sequential else .bytePage
  epe := if statusEpe sr then .error else .success
  wpp := if statusWpp sr then .deasserted else .asserted
  range := protRange (statusSwp sr)
  wel := statusWel sr
  busy := statusBusy sr

/-- `VAL = (cs_n << 4) | (creset_n << 7)` (30_encoding.md R84). -/
def gpioValue (csN cresetN : Bool) : Byte :=
  ((if csN then 1 else 0 : Byte) <<< Config.csBit) ||| ((if cresetN then 1 else 0 : Byte) <<< Config.cresetBit)

/-- `CS_ASSERTED` (R28), defined only when `GPIO_VAL ≠ ⊥`. -/
def csAsserted (s : State) : Option Bool := s.gpioVal.map fun v => !v.getLsbD Config.csBit

/-- `RESET_HELD` (R28), defined only when `GPIO_VAL ≠ ⊥`. -/
def resetHeld (s : State) : Option Bool := s.gpioVal.map fun v => !v.getLsbD Config.cresetBit

/-- `CDONE = GPIO_IN_LO[6]` (R29). -/
def cdone (s : State) : Option Bool := s.gpioInLo.map fun v => v.getLsbD Config.cdoneBit

/-- `CS_ORDER_CHECK(v)` (41_gpio_mux.md R114): a write that asserts chip-select is admitted only if it holds reset and
reset is already held. -/
def csOrderOk (v : Byte) (s : State) : Bool :=
  v.getLsbD Config.csBit || (!v.getLsbD Config.cresetBit && (resetHeld s).getD false)

/-- `SAFE_STATE_CHECK()` (40_engine.md R110). -/
def safeToClose (s : State) : Bool :=
  decide (s.gpioVal = some Config.gpioRelease ∧ s.flashPwr = .down)

/-- The k received bits of `BITS_IN`, at the end that `BITS_ALIGN` names (R30, D25). -/
def bitsReceived (align : BitsAlign) (b : Byte) (k : Nat) : Nat :=
  match align with
  | .low => b.toNat % 2 ^ k
  | .high => b.toNat / 2 ^ (8 - k)

/-- The numeric cause codes (R165). -/
def Cause.code : Cause → Nat
  | .ctrlFail => 1
  | .shortWrite => 2
  | .readNeg => 3
  | .pollBound => 4
  | .busyBound => 5

/-- The numeric layer codes (R166). -/
def Layer.code : Layer → Nat
  | .engine => 0
  | .bus => 1
  | .flash => 2

end Sys2Proof.Machine
end

