-- ==== Sys2Proof/Machine/Engine.lean ====
section
/-! DEFINITION. The protocol engine's requests (40_engine.md): operations that other requests call inline, and the
meaning of each engine request, raised at layer ENGINE (60_exceptions.md R166). -/

namespace Sys2Proof.Machine

/-- What a full-duplex transfer sends from and overwrites: a host buffer (R47) or an array inside a request (R129,
R142). -/
inductive XferBuf where
  | host (b : Buf)
  | own (bs : Bytes)
  deriving DecidableEq, Repr, Inhabited

/-- `len(buf)`. -/
def xferLen : XferBuf → Nat
  | .host b => b.len
  | .own bs => bs.length

/-- `MemRead(buf, 0, n)`. -/
def xferBytes (x : XferBuf) (n : Nat) (m : Memory) : Bytes :=
  match x with
  | .host b => bufRead b n m
  | .own bs => bs.take n

/-- Where the received bytes are stored in host memory, if they are. -/
def xferDst : XferBuf → Option Nat
  | .host b => some b.base
  | .own _ => none

/-- The frame LF-CLK5 (30_encoding.md R78, R97). -/
def clk5Op (s : State) : Res Unit := txWrite [0x8B] s

/-- The frame LF-DIV and the record of its divisor in `SLOW` and `CLKDIV` (R24, R79, R97). -/
def divOp (d : BitVec 16) (s : State) : Res Unit :=
  (txWrite (divFrame d) s).bind fun _ t => .ok () { t with slow := some (decide (d = Config.divSlow)), clkdiv := some d }

/-- `OPEN slow` (R97). After a failure no later step runs and the registers keep what was written (R98). -/
def openOp (slow : Bool) (s : State) : Res Unit :=
  if s.session ≠ .closed then .faulted .session s
  else
    (ctrl .acquire { s with err := none }).bind fun _ s1 =>
    (ctrl .resetDevice { s1 with handle := true }).bind fun _ s2 =>
    (ctrl .purge s2).bind fun _ s3 =>
    (ctrl .getLatency s3).bind fun v s4 =>
    (ctrl (.setLatency Config.latFast) { s4 with latSaved := some v, latCaptured := true }).bind fun _ s5 =>
    (ctrl (.setBitmode Config.gpioDirAllOut .mpsse) s5).bind fun _ s6 =>
    (clk5Op { s6 with gpioDir := some Config.gpioDirAllOut, gpioVal := none }).bind fun _ s7 =>
    (divOp (divisorOf slow) s7).bind fun _ s8 =>
    .ok () { s8 with
      flashPwr := .unknown
      status := none
      gpioInLo := none
      gpioInHi := none
      bitsIn := none
      jedecMfr := none
      jedecDev := none
      jedecExtlen := none
      jedecExt := none
      session := .opened }

/-- `CLOSE` (R109), with `SAFE_STATE_CHECK` (R110). With `LAT_SAVED` = ⊥, which no run reaches, the read of it faults
(10_state.md R18; log 14). -/
def closeOp (s : State) : Res Unit :=
  if s.session ≠ .opened then .faulted .session s
  else if !safeToClose s then .faulted .unsafeClose s
  else
    match s.latSaved with
    | none => .faulted .undefined s
    | some v =>
      (ctrl (.setLatency v) s).bind fun _ s1 =>
      (ctrl (.setBitmode 0x00 .reset) s1).bind fun _ s2 =>
      (ctrl .release s2).bind fun _ s3 =>
      .ok () { s3 with handle := false, latCaptured := false, session := .closed }

/-- `SEND op, data` (R101); nothing is sent for no bytes (R102). -/
def sendOp (op : Byte) (data : Bytes) (s : State) : Res Unit :=
  if s.session ≠ .opened then .faulted .session s
  else if op ≠ 0x11 then .faulted .linkOp s
  else if Config.maxFrame < data.length then .faulted .len s
  else if data.length = 0 then .ok () s
  else (txWrite (byteHeader op data.length) s).bind fun _ t => txWrite data t

/-- `XFER op, buf, n` (R103): all of the payload is sent before any byte is read; answers the bytes received. -/
def xferOp (op : Byte) (x : XferBuf) (n : Nat) (s : State) : Res Bytes :=
  if s.session ≠ .opened then .faulted .session s
  else if op ≠ 0x31 then .faulted .linkOp s
  else if Config.maxFrame < n then .faulted .len s
  else if xferLen x < n then .faulted .buf s
  else if n = 0 then .ok [] s
  else
    (txWrite (byteHeader op n) s).bind fun _ t =>
    (txWrite (xferBytes x n t.mem) t).bind fun _ u =>
    recvMany (xferDst x) n 0 u

/-- `XBITS v, k` (R105); k = 0 returns 0x00 with no I/O (D24). -/
def xbitsOp (v : Byte) (k : Nat) (s : State) : Res Byte :=
  if s.session ≠ .opened then .faulted .session s
  else if Config.bitsMax < k then .faulted .bits s
  else if k = 0 then .ok 0x00 s
  else
    (txWrite [0x33, BitVec.ofNat 8 (k - 1), v] s).bind fun _ t =>
    (recv1 t).bind fun b u => .ok b { u with bitsIn := some b }

/-- `SET_GPIO v, d` (R106). After a failed write `GPIO_VAL` holds ⊥, because the lines may or may not have changed. -/
def setGpioOp (v d : Byte) (s : State) : Res Unit :=
  if s.session ≠ .opened then .faulted .session s
  else if d ≠ Config.gpioDirMask then .faulted .gpioDir s
  else if !csOrderOk v s then .faulted .csOrder s
  else
    match txWrite [0x80, v, d] s with
    | .ok _ t => .ok () { t with gpioVal := some v, gpioDir := some d }
    | .raised c t => .raised c { t with gpioVal := none }
    | .faulted f t => .faulted f t
    | .hung => .hung

/-- `RDGPIOL` (R107). -/
def rdGpioLOp (s : State) : Res Byte :=
  if s.session ≠ .opened then .faulted .session s
  else
    (txWrite [0x81] s).bind fun _ t =>
    (recv1 t).bind fun b u => .ok b { u with gpioInLo := some b }

/-- `RDGPIOH` (R108). -/
def rdGpioHOp (s : State) : Res Byte :=
  if s.session ≠ .opened then .faulted .session s
  else
    (txWrite [0x83] s).bind fun _ t =>
    (recv1 t).bind fun b u => .ok b { u with gpioInHi := some b }

/-- Meaning of `OPEN` (R97, R98). -/
def execOpen (slow : Bool) (s : State) : Host.Outcome State Fault Refusal :=
  conclude .engine (fun _ => .unit) (openOp slow s)

/-- Meaning of `CLOSE` (R109). -/
def execClose (s : State) : Host.Outcome State Fault Refusal :=
  conclude .engine (fun _ => .unit) (closeOp s)

/-- Meaning of `ABORT` (R111, R178): admitted in every state. -/
def execAbort (s : State) : Host.Outcome State Fault Refusal :=
  conclude .engine (fun _ => .unit) (abortOp s)

/-- Meaning of `SEND` (R101). -/
def execSend (op : Byte) (data : Data) (s : State) : Host.Outcome State Fault Refusal :=
  conclude .engine (fun _ => .unit) (sendOp op (dataBytes data s.mem) s)

/-- Meaning of `XFER` (R103). -/
def execXfer (op : Byte) (buf : Buf) (n : Nat) (s : State) : Host.Outcome State Fault Refusal :=
  conclude .engine (fun _ => .unit) (xferOp op (.host buf) n s)

/-- Meaning of `XBITS` (R105). -/
def execXbits (v : Byte) (k : Nat) (s : State) : Host.Outcome State Fault Refusal :=
  conclude .engine .byte (xbitsOp v k s)

/-- Meaning of `SET_GPIO` (R106). -/
def execSetGpio (v d : Byte) (s : State) : Host.Outcome State Fault Refusal :=
  conclude .engine (fun _ => .unit) (setGpioOp v d s)

/-- Meaning of `RDGPIOL` (R107). -/
def execRdGpioL (s : State) : Host.Outcome State Fault Refusal := conclude .engine .byte (rdGpioLOp s)

/-- Meaning of `RDGPIOH` (R108). -/
def execRdGpioH (s : State) : Host.Outcome State Fault Refusal := conclude .engine .byte (rdGpioHOp s)

end Sys2Proof.Machine
end

