-- ==== Sys2Proof/Machine/Frames.lean ====
section
/-! DEFINITION. The link-frame rows of the opcode table as instructions: the command framer's emission of one frame,
with the checks, events and registers of the engine request that emits it (30_encoding.md R73 to R79; log 9). -/

namespace Sys2Proof.Machine

/-- Meaning of LF-BO: the frame `SEND` emits (R73, R101). -/
def execLfBo (payload : Bytes) (s : State) : Host.Outcome State Fault Refusal :=
  conclude .engine (fun _ => .unit) (sendOp 0x11 payload s)

/-- Meaning of LF-BX: the frame `XFER` emits (R74, R103); its n response bytes are the result. -/
def execLfBx (payload : Bytes) (s : State) : Host.Outcome State Fault Refusal :=
  conclude .engine .bytes (xferOp 0x31 (.own payload) payload.length s)

/-- Meaning of LF-BITS: the frame `XBITS` emits for k = K + 1 bits (R75, R86, R105). -/
def execLfBits (K : BitVec 3) (v : Byte) (s : State) : Host.Outcome State Fault Refusal :=
  conclude .engine .byte (xbitsOp v (K.toNat + 1) s)

/-- Meaning of LF-GSET: the frame `SET_GPIO` emits (R76, R106). -/
def execLfGset (v : Byte) (s : State) : Host.Outcome State Fault Refusal :=
  conclude .engine (fun _ => .unit) (setGpioOp v Config.gpioDirMask s)

/-- Meaning of LF-GRD low: the frame `RDGPIOL` emits (R77, R107). -/
def execLfGrdLow (s : State) : Host.Outcome State Fault Refusal := conclude .engine .byte (rdGpioLOp s)

/-- Meaning of LF-GRD high: the frame `RDGPIOH` emits (R77, R108). -/
def execLfGrdHigh (s : State) : Host.Outcome State Fault Refusal := conclude .engine .byte (rdGpioHOp s)

/-- A frame that `OPEN` emits, issued by itself inside a session (R21, R97; log 9). -/
def inSession (op : State → Res Unit) (s : State) : Res Unit :=
  if s.session ≠ .opened then .faulted .session s else op s

/-- Meaning of LF-CLK5 (R78, R97). -/
def execLfClk5 (s : State) : Host.Outcome State Fault Refusal :=
  conclude .engine (fun _ => .unit) (inSession clk5Op s)

/-- Whether the block emits the divisor `d`: "No other value is emitted" (R83). -/
def divisorEmitted (d : BitVec 16) : Bool := decide (d = Config.divFull ∨ d = Config.divSlow)

/-- Meaning of LF-DIV (R79, R97). A divisor other than 0 and 119 is never emitted (R83; log 10). -/
def execLfDiv (d : BitVec 16) (s : State) : Host.Outcome State Fault Refusal :=
  if s.session = .opened ∧ divisorEmitted d = false then .refused (.divisorNotEmitted d)
  else conclude .engine (fun _ => .unit) (inSession (divOp d) s)

end Sys2Proof.Machine
end

