-- ==== Sys2Proof/Machine/Gmux.lean ====
section
/-! DEFINITION. The GPIO control multiplexer's requests (41_gpio_mux.md), raised at layer BUS (R122). -/

namespace Sys2Proof.Machine

/-- `SELECT` (R116). -/
def selectOp (s : State) : Res Unit := setGpioOp Config.gpioSelect Config.gpioDirMask s

/-- `DESELECT` (R117). -/
def deselectOp (s : State) : Res Unit := setGpioOp Config.gpioDeselect Config.gpioDirMask s

/-- `RELEASE` (R118). -/
def releaseOp (s : State) : Res Unit := setGpioOp Config.gpioRelease Config.gpioDirMask s

/-- `BSEND data, n` (R120): F_SESSION, then F_BUF, then `SEND`. -/
def bsendOp (data : Bytes) (n : Nat) (s : State) : Res Unit :=
  if s.session ≠ .opened then .faulted .session s
  else if data.length < n then .faulted .buf s
  else sendOp 0x11 (data.take n) s

/-- `BXFER buf, n` (R121). -/
def bxferOp (x : XferBuf) (n : Nat) (s : State) : Res Bytes := xferOp 0x31 x n s

/-- `BSEND bs` of a whole byte list, as the flash requests call it. -/
def bsendAll (bs : Bytes) (s : State) : Res Unit := bsendOp bs bs.length s

/-- `BXFER B, len(B)` on an array inside a request. -/
def bxferAll (bs : Bytes) (s : State) : Res Bytes := bxferOp (.own bs) bs.length s

/-- Meaning of `SELECT` (R116). -/
def execSelect (s : State) : Host.Outcome State Fault Refusal := conclude .bus (fun _ => .unit) (selectOp s)

/-- Meaning of `DESELECT` (R117). -/
def execDeselect (s : State) : Host.Outcome State Fault Refusal := conclude .bus (fun _ => .unit) (deselectOp s)

/-- Meaning of `RELEASE` (R118). -/
def execRelease (s : State) : Host.Outcome State Fault Refusal := conclude .bus (fun _ => .unit) (releaseOp s)

/-- Meaning of `BSEND data[, n]` (R120). -/
def execBsend (data : Data) (n : Option Nat) (s : State) : Host.Outcome State Fault Refusal :=
  conclude .bus (fun _ => .unit) (bsendOp (dataBytes data s.mem) (dataCount n (dataBytes data s.mem)) s)

/-- Meaning of `BXFER buf[, n]` (R121). -/
def execBxfer (buf : Buf) (n : Option Nat) (s : State) : Host.Outcome State Fault Refusal :=
  conclude .bus (fun _ => .unit) (bxferOp (.host buf) (bufCount n buf) s)

end Sys2Proof.Machine
end

