-- ==== Sys2Proof/Machine/Flash.lean ====
section
/-! DEFINITION. The flash opcode encoder's requests (42_flash_commands.md), raised at layer FLASH (R124, R135). -/

namespace Sys2Proof.Machine

/-- `TXN(body)` (R124): the chip-select bracket. No `DESELECT` follows a failure. The request's operand checks come
between the session check and this bracket (R173). -/
def txn {α : Type} (body : State → Res α) (s : State) : Res α :=
  if s.session ≠ .opened then .faulted .session s
  else
    (selectOp s).bind fun _ t =>
    (body t).bind fun a u =>
    (deselectOp u).bind fun _ v => .ok a v

/-- A single-opcode transaction S-OP (R87): `TXN( call BSEND [op] )`. -/
def sOp (op : Byte) (s : State) : Res Unit := txn (bsendAll [op]) s

/-- The reset transaction S-RST: eight 0xFF bytes, write-only (R87, R126). -/
def sReset (s : State) : Res Unit := txn (bsendAll (List.replicate Config.resetFfCount 0xFF)) s

/-- The release-power-down transaction and its record in `FLASH_PWR` (R35, R127). -/
def powerUpOp (s : State) : Res Unit := (sOp 0xAB s).bind fun _ t => .ok () { t with flashPwr := .up }

/-- The power-down transaction and its record in `FLASH_PWR` (R35, R128). -/
def powerDownOp (s : State) : Res Unit := (sOp 0xB9 s).bind fun _ t => .ok () { t with flashPwr := .down }

/-- The status transaction S-ST (R87): response byte 1 goes to `STATUS`; byte 0 is discarded (R129). -/
def sStatus (s : State) : Res Byte :=
  (txn (bxferAll [0x05, 0x00]) s).bind fun bs t => .ok (bs.getD 1 0) { t with status := some (bs.getD 1 0) }

/-- The report of the status fields under `VERBOSE` (R129, R136): log output only. -/
def reportStatus (sr : Byte) (s : State) : State :=
  if s.opts.verbose then s.report (statusReport sr) else s

/-- `RDSR` (R129): the status transaction, the report, then the wait of about 1 ms. -/
def rdsrOp (s : State) : Res Byte :=
  (sStatus s).bind fun sr t => .ok sr ((reportStatus sr t).log (.idle .status))

/-- `if VERBOSE: call RDSR` (R130). -/
def rdsrIfVerbose (s : State) : Res Unit :=
  if s.opts.verbose then (rdsrOp s).bind fun _ t => .ok () t else .ok () s

/-- `WREN` (R130): with `VERBOSE`, a full `RDSR` before and after (D37). -/
def wrenOp (s : State) : Res Unit :=
  if s.session ≠ .opened then .faulted .session s
  else
    (rdsrIfVerbose s).bind fun _ t =>
    (sOp 0x06 t).bind fun _ u =>
    rdsrIfVerbose u

/-- The block-erase transaction S-A (R87, R132): any 24-bit address, sent unchanged (R57). -/
def sBlockErase (a : FlashAddr) (s : State) : Res Unit := txn (bsendAll (spiHeader 0xD8 a)) s

/-- The page-program transaction S-AW (R87, R133): the header frame, then the first `n` bytes of `data`. -/
def sPageProgram (a : FlashAddr) (data : Bytes) (n : Nat) (s : State) : Res Unit :=
  txn (fun t => (bsendAll (spiHeader 0x02 a) t).bind fun _ u => bsendOp data n u) s

/-- Zero the first `n` bytes of the buffer before the read (R134). -/
def preZero (x : XferBuf) (n : Nat) (s : State) : State :=
  match x with
  | .host b => { s with mem := writeBytes s.mem b.base (zeros n) }
  | .own _ => s

/-- The read transaction S-AR (R87, R134): the header frame, the pre-zeroing, then the full-duplex frame. -/
def sReadData (a : FlashAddr) (x : XferBuf) (n : Nat) (s : State) : Res Bytes :=
  txn (fun t => (bsendAll (spiHeader 0x03 a) t).bind fun _ u => bxferOp x n (preZero x n u)) s

/-- `BE64K addr` (R132). -/
def be64kOp (addr : Nat) (s : State) : Res Unit :=
  if s.session ≠ .opened then .faulted .session s
  else if Config.addrLimit ≤ addr then .faulted .addr s
  else sBlockErase (addrOf addr) s

/-- `PP addr, data, n` (R133). -/
def ppOp (addr : Nat) (data : Bytes) (n : Nat) (s : State) : Res Unit :=
  if s.session ≠ .opened then .faulted .session s
  else if Config.addrLimit ≤ addr then .faulted .addr s
  else if data.length < n then .faulted .buf s
  else if crossesPage addr n then .faulted .pageCross s
  else sPageProgram (addrOf addr) data n s

/-- `READ addr, buf, n` (R134). -/
def readOp (addr : Nat) (x : XferBuf) (n : Nat) (s : State) : Res Bytes :=
  if s.session ≠ .opened then .faulted .session s
  else if Config.addrLimit ≤ addr then .faulted .addr s
  else if Config.maxFrame < n then .faulted .len s
  else if xferLen x < n then .faulted .buf s
  else sReadData (addrOf addr) x n s

/-- Meaning of `FRESET` (R126). -/
def execFreset (s : State) : Host.Outcome State Fault Refusal := conclude .flash (fun _ => .unit) (sReset s)

/-- Meaning of `FPUP` (R127). -/
def execFpup (s : State) : Host.Outcome State Fault Refusal := conclude .flash (fun _ => .unit) (powerUpOp s)

/-- Meaning of `FPDN` (R128). -/
def execFpdn (s : State) : Host.Outcome State Fault Refusal := conclude .flash (fun _ => .unit) (powerDownOp s)

/-- Meaning of `RDSR` (R129). -/
def execRdsr (s : State) : Host.Outcome State Fault Refusal := conclude .flash .byte (rdsrOp s)

/-- Meaning of `WREN` (R130). -/
def execWren (s : State) : Host.Outcome State Fault Refusal := conclude .flash (fun _ => .unit) (wrenOp s)

/-- Meaning of `CE` (R131). -/
def execCe (s : State) : Host.Outcome State Fault Refusal := conclude .flash (fun _ => .unit) (sOp 0xC7 s)

/-- Meaning of `BE64K` (R132). -/
def execBe64k (addr : Nat) (s : State) : Host.Outcome State Fault Refusal :=
  conclude .flash (fun _ => .unit) (be64kOp addr s)

/-- Meaning of `PP` (R133). -/
def execPp (addr : Nat) (data : Data) (n : Nat) (s : State) : Host.Outcome State Fault Refusal :=
  conclude .flash (fun _ => .unit) (ppOp addr (dataBytes data s.mem) n s)

/-- Meaning of `READ` (R134). -/
def execRead (addr : Nat) (buf : Buf) (n : Nat) (s : State) : Host.Outcome State Fault Refusal :=
  conclude .flash (fun _ => .unit) (readOp addr (.host buf) n s)

end Sys2Proof.Machine
end

