-- ==== Sys2Proof/Machine/Poll.lean ====
section
/-! DEFINITION. Status-poll debounce, protection disable and the JEDEC parser (43_status_poll_jedec.md), raised at layer
FLASH. -/

namespace Sys2Proof.Machine

/-- One poll's effect on `DBCNT`: plus one on a not-busy poll, zero on a busy one (10_state.md R33, R137). -/
def debounce (sr : Byte) (s : State) : State :=
  { s with dbcnt := if statusBusy sr then 0 else s.dbcnt + 1 }

/-- The loop of `WAITBUSY` (R137) after `polls` polls, followed for `fuel` turns; out of fuel it hangs (R139, R175).
The debounce test comes before the bound test. -/
def waitLoop : Nat → Nat → State → Res Unit
  | 0, _, _ => .hung
  | fuel + 1, polls, s =>
    (rdsrOp s).bind fun sr t =>
      if (debounce sr t).dbcnt = Config.debounceN then .ok () (debounce sr t)
      else if boundReached t.opts.busyBound (polls + 1) then .raised .busyBound (debounce sr t)
      else waitLoop fuel (polls + 1) (debounce sr t)

/-- The fault checks of `WAITBUSY` and `RDID` before they write a register: F_SESSION, then the F_CS_ORDER that their
first `SELECT` would report (60_exceptions.md R171, R173; log 13). -/
def flashChecks {α : Type} (op : State → Res α) (s : State) : Res α :=
  if s.session ≠ .opened then .faulted .session s
  else if !csOrderOk Config.gpioSelect s then .faulted .csOrder s
  else op s

/-- `WAITBUSY` (R137). -/
def waitBusyOp (s : State) : Res Unit :=
  flashChecks (fun t => waitLoop (turns t.opts.busyBound t.opts.fuel) 0 { t with dbcnt := 0 }) s

/-- The write-status transaction S-WS, always with the value 0x00 (R140, R141). -/
def sWriteStatus (s : State) : Res Unit := txn (bsendAll [0x01, 0x00]) s

/-- `DISPROT` (R140): write-status 0x00, `WAITBUSY`, one more `RDSR`, and a warning if the status is not 0x00. -/
def disProtOp (s : State) : Res Unit :=
  (sWriteStatus s).bind fun _ t =>
  (waitBusyOp t).bind fun _ u =>
  (rdsrOp u).bind fun sr v =>
  .ok () (if sr = 0x00 then v else v.warn (.protNotCleared sr))

/-- The extended read of `RDID` for the extended length `l` (R142 to R144): none for 0xFF (a glitch, with a warning)
and for 0x00, else exactly `l` bytes. -/
def jedecExtOp (l : Byte) (s : State) : Res Bytes :=
  if l = Config.jedecGlitch then .ok [] { s.warn .jedecFF with jedecExt := some [] }
  else if l = 0x00 then .ok [] { s with jedecExt := some [] }
  else (bxferAll (zeros l.toNat) s).bind fun e t => .ok e { t with jedecExt := some e }

/-- `JEDEC_MFR, JEDEC_DEV, JEDEC_EXTLEN` from the five received bytes; byte 0 is discarded (R142). -/
def setJedec (b : Bytes) (s : State) : State :=
  { s with
    jedecMfr := some (b.getD 1 0)
    jedecDev := some (b.getD 2 0, b.getD 3 0)
    jedecExtlen := some (b.getD 4 0) }

/-- `JEDEC_* <- ⊥` (R142). -/
def clearJedec (s : State) : State :=
  { s with jedecMfr := none, jedecDev := none, jedecExtlen := none, jedecExt := none }

/-- `RDID` (R142): answers the identity. -/
def rdIdOp (s : State) : Res Result :=
  flashChecks (fun s0 =>
    (selectOp (clearJedec s0)).bind fun _ s1 =>
    (bxferAll [0x9F, 0x00, 0x00, 0x00, 0x00] s1).bind fun b s2 =>
    (jedecExtOp (b.getD 4 0) (setJedec b s2)).bind fun e s3 =>
    (deselectOp s3).bind fun _ s4 =>
    .ok (.jedec (b.getD 1 0) (b.getD 2 0) (b.getD 3 0) (b.getD 4 0) e) s4) s

/-- Meaning of `WAITBUSY` (R137). -/
def execWaitBusy (s : State) : Host.Outcome State Fault Refusal := conclude .flash (fun _ => .unit) (waitBusyOp s)

/-- Meaning of `DISPROT` (R140). -/
def execDisProt (s : State) : Host.Outcome State Fault Refusal := conclude .flash (fun _ => .unit) (disProtOp s)

/-- Meaning of `RDID` (R142). -/
def execRdId (s : State) : Host.Outcome State Fault Refusal := conclude .flash id (rdIdOp s)

end Sys2Proof.Machine
end

