-- ==== Sys2Proof/Machine/Spi.lean ====
section
/-! DEFINITION. The SPI-opcode rows of the table as instructions: one flash transaction in its chip-select bracket,
with the registers its response sets, at layer FLASH (30_encoding.md R87 to R89; log 11). -/

namespace Sys2Proof.Machine

/-- Meaning of SPI write-enable 0x06: the transaction of `WREN` alone (R88, R130). -/
def execSpiWriteEnable (s : State) : Host.Outcome State Fault Refusal := conclude .flash (fun _ => .unit) (sOp 0x06 s)

/-- Meaning of SPI read-status-1 0x05: response byte 1 = status (R87, R129). -/
def execSpiReadStatus1 (s : State) : Host.Outcome State Fault Refusal := conclude .flash .byte (sStatus s)

/-- Meaning of SPI write-status 0x01 with value 0x00 (R140, R141). -/
def execSpiWriteStatus (s : State) : Host.Outcome State Fault Refusal := conclude .flash (fun _ => .unit) (sWriteStatus s)

/-- Meaning of SPI page-program 0x02 (R133). -/
def execSpiPageProgram (a : FlashAddr) (data : Bytes) (s : State) : Host.Outcome State Fault Refusal :=
  conclude .flash (fun _ => .unit) (ppOp a.toNat data data.length s)

/-- Meaning of SPI block-erase-64K 0xD8 (R132). -/
def execSpiBlockErase64K (a : FlashAddr) (s : State) : Host.Outcome State Fault Refusal :=
  conclude .flash (fun _ => .unit) (be64kOp a.toNat s)

/-- Meaning of SPI chip-erase 0xC7 (R131). -/
def execSpiChipErase (s : State) : Host.Outcome State Fault Refusal := conclude .flash (fun _ => .unit) (sOp 0xC7 s)

/-- Meaning of SPI power-down 0xB9 (R128). -/
def execSpiPowerDown (s : State) : Host.Outcome State Fault Refusal := conclude .flash (fun _ => .unit) (powerDownOp s)

/-- Meaning of SPI release-power-down 0xAB (R127). -/
def execSpiReleasePowerDown (s : State) : Host.Outcome State Fault Refusal :=
  conclude .flash (fun _ => .unit) (powerUpOp s)

/-- Meaning of SPI JEDEC-ID 0x9F (R142). -/
def execSpiJedecId (s : State) : Host.Outcome State Fault Refusal := conclude .flash id (rdIdOp s)

/-- Meaning of SPI read-data 0x03 (R134): the n bytes read are the result. -/
def execSpiReadData (a : FlashAddr) (n : Nat) (s : State) : Host.Outcome State Fault Refusal :=
  conclude .flash .bytes (readOp a.toNat (.own (zeros n)) n s)

/-- Meaning of SPI reset, eight 0xFF (R126). -/
def execSpiReset (s : State) : Host.Outcome State Fault Refusal := conclude .flash (fun _ => .unit) (sReset s)

end Sys2Proof.Machine
end

