-- ==== Sys2Proof/Machine/Dispatch.lean ====
section
/-! DEFINITION. One arm per instruction. -/

namespace Sys2Proof.Machine

def exec (i : Instr) (s : State) : Host.Outcome State Fault Refusal :=
  match i with
  -- link frames
  | .lfBo payload => Sys2Proof.Machine.execLfBo payload s
  | .lfBx payload => Sys2Proof.Machine.execLfBx payload s
  | .lfBits K v => Sys2Proof.Machine.execLfBits K v s
  | .lfGset v => Sys2Proof.Machine.execLfGset v s
  | .lfGrdLow => Sys2Proof.Machine.execLfGrdLow s
  | .lfGrdHigh => Sys2Proof.Machine.execLfGrdHigh s
  | .lfClk5 => Sys2Proof.Machine.execLfClk5 s
  | .lfDiv d => Sys2Proof.Machine.execLfDiv d s
  -- SPI transactions
  | .spiWriteEnable => Sys2Proof.Machine.execSpiWriteEnable s
  | .spiReadStatus1 => Sys2Proof.Machine.execSpiReadStatus1 s
  | .spiWriteStatus => Sys2Proof.Machine.execSpiWriteStatus s
  | .spiPageProgram addr data => Sys2Proof.Machine.execSpiPageProgram addr data s
  | .spiBlockErase64K addr => Sys2Proof.Machine.execSpiBlockErase64K addr s
  | .spiChipErase => Sys2Proof.Machine.execSpiChipErase s
  | .spiPowerDown => Sys2Proof.Machine.execSpiPowerDown s
  | .spiReleasePowerDown => Sys2Proof.Machine.execSpiReleasePowerDown s
  | .spiJedecId => Sys2Proof.Machine.execSpiJedecId s
  | .spiReadData addr n => Sys2Proof.Machine.execSpiReadData addr n s
  | .spiReset => Sys2Proof.Machine.execSpiReset s
  -- engine requests
  | .openReq slow => Sys2Proof.Machine.execOpen slow s
  | .closeReq => Sys2Proof.Machine.execClose s
  | .abortReq => Sys2Proof.Machine.execAbort s
  | .send op data => Sys2Proof.Machine.execSend op data s
  | .xfer op buf n => Sys2Proof.Machine.execXfer op buf n s
  | .xbits v k => Sys2Proof.Machine.execXbits v k s
  | .setGpio v d => Sys2Proof.Machine.execSetGpio v d s
  | .rdGpioL => Sys2Proof.Machine.execRdGpioL s
  | .rdGpioH => Sys2Proof.Machine.execRdGpioH s
  -- multiplexer requests
  | .select => Sys2Proof.Machine.execSelect s
  | .deselect => Sys2Proof.Machine.execDeselect s
  | .release => Sys2Proof.Machine.execRelease s
  | .bsend data n => Sys2Proof.Machine.execBsend data n s
  | .bxfer buf n => Sys2Proof.Machine.execBxfer buf n s
  -- flash requests
  | .freset => Sys2Proof.Machine.execFreset s
  | .fpup => Sys2Proof.Machine.execFpup s
  | .fpdn => Sys2Proof.Machine.execFpdn s
  | .rdsr => Sys2Proof.Machine.execRdsr s
  | .wren => Sys2Proof.Machine.execWren s
  | .ce => Sys2Proof.Machine.execCe s
  | .be64k addr => Sys2Proof.Machine.execBe64k addr s
  | .pp addr data n => Sys2Proof.Machine.execPp addr data n s
  | .read addr buf n => Sys2Proof.Machine.execRead addr buf n s
  | .waitBusy => Sys2Proof.Machine.execWaitBusy s
  | .disProt => Sys2Proof.Machine.execDisProt s
  | .rdId => Sys2Proof.Machine.execRdId s

end Sys2Proof.Machine
end

