-- ==== Sys2Proof/Machine/Fetch.lean ====
section
/-! DEFINITION. Taking the next item of the host's request stream. The block fetches no stored code (20_memory.md R69):
its program is the request stream, which the host owns (10_state.md R20). -/

namespace Sys2Proof.Machine

/-- What the block finds in the request stream. -/
inductive Fetched where
  /-- No request is waiting. -/
  | idle
  /-- The next instruction, and the state with it taken from the stream. -/
  | instr (i : Instr) (s : State)
  /-- Bytes that are no instruction. -/
  | bad (e : DecodeErr)
  deriving DecidableEq, Repr, Inhabited

/-- Take the next item: a typed request as it is; bytes through the decoder, which leaves the bytes of the frames that
follow in front of the stream (30_encoding.md R71, R80). -/
def fetch (s : State) : Fetched :=
  match s.queue with
  | [] => .idle
  | .request i :: q => .instr i { s with queue := q }
  | .bytes bs :: q =>
    match decode bs with
    | .ok i [] => .instr i { s with queue := q }
    | .ok i (b :: rest) => .instr i { s with queue := .bytes (b :: rest) :: q }
    | .bad e => .bad e

end Sys2Proof.Machine
end

