-- ==== Sys2Proof/Machine/Step.lean ====
section
/-! DEFINITION. One step of the block: one host request, run to completion (00_scope.md R8, R15). -/

namespace Sys2Proof.Machine

/-- One step. With no request waiting the block does nothing (R8; log 18). -/
def step (s : State) : Host.Outcome State Fault Refusal :=
  match fetch s with
  | .idle => .next s
  | .instr i t => exec i t
  | .bad e => .refused (.undecodable e)

/-- `s` with the instruction of the opcode-table word `w` in front of the request stream, where step takes its next
instruction (log 19). -/
def State.withFetchWord (s : State) (nbits w : Nat) : State :=
  { s with queue := .bytes (tableBytes nbits w) :: s.queue }

end Sys2Proof.Machine
end

