-- ==== Sys2Proof/Machine/Sequencer.lean ====
section
/-! DEFINITION. The reference host program (44_host_sequencer.md). It is outside the block (00_scope.md R5): nothing in
State belongs to it. It issues requests by running `step` and reads each answer. -/

namespace Sys2Proof.Machine

/-- `o & ~0xFFFF` (R147). -/
def eraseBegin (o : Nat) : Nat := o / Config.blockSize * Config.blockSize

/-- `(o + s + 0xFFFF) & ~0xFFFF` (R147). -/
def eraseEnd (o s : Nat) : Nat := (o + s + 0xFFFF) / Config.blockSize * Config.blockSize

/-- The blocks of the erase plan: begin, begin + 0x10000, ..., end − 0x10000 (R147). -/
def erasePlan (o s : Nat) : List Nat :=
  (List.range ((eraseEnd o s - eraseBegin o) / Config.blockSize)).map fun j => eraseBegin o + Config.blockSize * j

/-- The page window: the size of the write chunk at address `a` (R149). -/
def pageWindow (a : Nat) : Nat := Config.pageSize - a % Config.pageSize

/-- The write pass's chunks (R155); `fuel` ≥ the source's length is enough, each chunk having a byte. -/
def writeChunks : Nat → Nat → Bytes → List (Nat × Bytes)
  | 0, _, _ => []
  | fuel + 1, a, src =>
    if src = [] then []
    else (a, src.take (pageWindow a)) ::
      writeChunks fuel (a + (src.take (pageWindow a)).length) (src.drop (pageWindow a))

/-- The verify pass's chunks: 256 bytes at offset + 256·j, the last one shorter (R150, R156). -/
def verifyChunks : Nat → Nat → Bytes → List (Nat × Bytes)
  | 0, _, _ => []
  | fuel + 1, a, src =>
    if src = [] then []
    else (a, src.take Config.pageSize) ::
      verifyChunks fuel (a + (src.take Config.pageSize).length) (src.drop Config.pageSize)

/-- The read pass's chunks (address, count) for `s` bytes (R158). -/
def readChunks : Nat → Nat → Nat → List (Nat × Nat)
  | 0, _, _ => []
  | fuel + 1, a, s =>
    if s = 0 then [] else (a, min Config.pageSize s) :: readChunks fuel (a + min Config.pageSize s) (s - min Config.pageSize s)

/-- The states of the host's state machine (R146). -/
inductive HostPhase where
  | init | broughtUp | protectionDisabled | erased | written | verified | poweredDown | closed | aborted
  deriving DecidableEq, Repr, Inhabited

/-- The host's own file and option operations, whose failure is a `UserError` (R162, R179). -/
inductive UserStep where
  /-- The offset and size options are checked ("invalid CLI offsets/sizes"). -/
  | checkOptions
  /-- The source file is opened. -/
  | openSource
  /-- The source file gives its next chunk, or no byte at its end (R155, R156). -/
  | readSource
  /-- The source file goes back to its start (R156). -/
  | rewindSource
  /-- The file of a read run is opened. -/
  | openSink
  /-- A chunk is written to it (R158). -/
  | writeSink
  deriving DecidableEq, Repr, Inhabited

/-- The identity `RDID` leaves in the JEDEC registers (10_state.md R34). -/
structure Identity where
  mfr : Byte
  dev : Byte × Byte
  extlen : Byte
  ext : Bytes
  deriving DecidableEq, Repr, Inhabited

/-- What the host reports or logs. -/
inductive HostReport where
  /-- Bring-up's CDONE (R151); `none` if `GPIO_IN_LO` is ⊥. -/
  | configDone (v : Option Bool)
  /-- Bring-up's identity (R151); `none` if a JEDEC register is ⊥. -/
  | identity (j : Option Identity)
  /-- Teardown's CDONE (R159). -/
  | finalConfigDone (v : Option Bool)
  /-- A mismatch in the chunk at this address (R157). -/
  | verifyError (a : Nat)
  /-- This operation of the host's own failed (R162). -/
  | userError (u : UserStep)
  deriving DecidableEq, Repr, Inhabited

/-- What the host does next. -/
inductive HostOp where
  /-- Issue a request. -/
  | request (i : Instr)
  /-- Wait (R202). -/
  | idle (t : IdleKind)
  /-- Report CDONE = `GPIO_IN_LO[6]` (R151). -/
  | reportConfigDone
  /-- Log the identity (R151). -/
  | logIdentity
  /-- Log the final CDONE (R159). -/
  | logFinalConfigDone
  /-- An operation of the host's own. -/
  | user (u : UserStep)
  /-- Compare the buffer's first bytes with a source chunk read at an address (R156). -/
  | compare (buf : Buf) (chunk : Bytes) (a : Nat)
  /-- Write the buffer's first n bytes out (R158). -/
  | sink (buf : Buf) (n : Nat)
  /-- A pass has completed (R146). -/
  | enter (p : HostPhase)
  deriving DecidableEq, Repr, Inhabited

/-- How a run stands. -/
inductive HostStatus where
  | running
  /-- A mismatch in the chunk at this address (R157). -/
  | verifyError (a : Nat)
  /-- An operation of the host's own failed (R160, R162). -/
  | userError (u : UserStep)
  /-- A request raised (R160). -/
  | hardwareError
  /-- The block refused a request; the reference host gives no continuation (log 21). -/
  | faulted (f : FCode)
  /-- The machine stopped (log 21). -/
  | stopped
  deriving DecidableEq, Repr, Inhabited

/-- A run of the reference host. -/
structure HostRun where
  st : State
  /-- The states of R146 entered so far, in order. -/
  entered : List HostPhase
  /-- What the host has reported and logged, in order. -/
  reports : List HostReport
  /-- The bytes a read run has written out. -/
  sunk : Bytes
  /-- How many operations of the host's own succeed before one fails; `none`: all succeed (log 32). -/
  userFails : Option Nat
  status : HostStatus
  deriving DecidableEq, Repr, Inhabited

/-- The state of R146 the host is in. -/
def HostRun.phase (h : HostRun) : HostPhase := h.entered.getLastD .init

/-- Append a report. -/
def HostRun.say (h : HostRun) (r : HostReport) : HostRun := { h with reports := h.reports ++ [r] }

/-- The identity the JEDEC registers hold. -/
def identityOf (s : State) : Option Identity :=
  match s.jedecMfr, s.jedecDev, s.jedecExtlen, s.jedecExt with
  | some m, some d, some l, some e => some ⟨m, d, l, e⟩
  | _, _, _, _ => none

/-- Issue one request and look at its answer (R160, R163). -/
def hostIssue (i : Instr) (h : HostRun) : HostRun :=
  match step { h.st with queue := .request i :: h.st.queue } with
  | .next t =>
    match t.answer with
    | .raised _ => { h with st := t, status := .hardwareError }
    | .faulted f => { h with st := t, status := .faulted f }
    | .done _ => { h with st := t }
    | .none => { h with st := t }
  | .fault _ => { h with status := .stopped }
  | .refused _ => { h with status := .stopped }

/-- An operation of the host's own: it succeeds with the effect `ok`, or fails and has none (R162; log 32). -/
def userStep (u : UserStep) (ok : HostRun → HostRun) (h : HostRun) : HostRun :=
  match h.userFails with
  | none => ok h
  | some 0 => { h.say (.userError u) with status := .userError u }
  | some (n + 1) => ok { h with userFails := some n }

/-- One host action. -/
def hostStep (op : HostOp) (h : HostRun) : HostRun :=
  match op with
  | .request i => hostIssue i h
  | .idle t => { h with st := h.st.log (.idle t) }
  | .reportConfigDone => h.say (.configDone (cdone h.st))
  | .logIdentity => h.say (.identity (identityOf h.st))
  | .logFinalConfigDone => h.say (.finalConfigDone (cdone h.st))
  | .user u => userStep u id h
  | .compare b chunk a =>
    if bufRead b chunk.length h.st.mem = chunk then h else { h.say (.verifyError a) with status := .verifyError a }
  | .sink b n => userStep .writeSink (fun g => { g with sunk := g.sunk ++ bufRead b n g.st.mem }) h
  | .enter p => { h with entered := h.entered ++ [p] }

/-- A list of host actions, stopping at the first that ends the run. -/
def runOps : List HostOp → HostRun → HostRun
  | [], h => h
  | op :: ops, h => if h.status = .running then runOps ops (hostStep op h) else h

/-- Bring-up (R151). -/
def bringUp (slow : Bool) : List HostOp :=
  [.request (.openReq slow), .request .rdGpioL, .reportConfigDone, .request .release, .idle .settleA,
   .request .deselect, .idle .settleA, .request .freset, .request .fpup, .request .rdId, .logIdentity,
   .enter .broughtUp]

/-- Protection disable (R152). -/
def protectionDisable : List HostOp := [.request .wren, .request .disProt, .enter .protectionDisabled]

/-- Bulk erase (R153). -/
def bulkErase : List HostOp := [.request .wren, .request .ce, .request .waitBusy, .enter .erased]

/-- Ranged erase (R154). -/
def rangedErase (o s : Nat) : List HostOp :=
  (erasePlan o s).flatMap (fun a => [.request .wren, .request (.be64k a), .request .waitBusy]) ++ [.enter .erased]

/-- The write pass (R155): it ends with the read of no byte. -/
def writePass (o : Nat) (src : Bytes) : List HostOp :=
  (writeChunks src.length o src).flatMap (fun c =>
    [.user .readSource, .request .wren, .request (.pp c.1 (.list c.2) c.2.length), .request .waitBusy]) ++
  [.user .readSource, .enter .written]

/-- The verify pass (R156), reading into `B`. -/
def verifyPass (o : Nat) (src : Bytes) (B : Buf) : List HostOp :=
  .user .rewindSource ::
  (verifyChunks src.length o src).flatMap (fun c =>
    [.user .readSource, .request (.read c.1 B c.2.length), .compare B c.2 c.1]) ++
  [.user .readSource, .enter .verified]

/-- The read pass (R158), reading into `B`. -/
def readPass (o s : Nat) (B : Buf) : List HostOp :=
  (readChunks s o s).flatMap fun c => [.request (.read c.1 B c.2), .sink B c.2]

/-- Teardown (R159). Its two states are entered when it completes (R146). -/
def teardown : List HostOp :=
  [.request .fpdn, .request .release, .idle .settleB, .request .rdGpioL, .logFinalConfigDone, .request .closeReq,
   .enter .poweredDown, .enter .closed]

/-- The subcommands and their options (R161). -/
inductive Subcommand where
  | write (disable skipErase bulk skipVerify : Bool) (o : Nat) (src : Bytes)
  | check (o : Nat) (src : Bytes)
  | read (o s : Nat)
  | erase (disable bulk : Bool) (o s : Nat)
  | disableProtection
  | test
  deriving DecidableEq, Repr, Inhabited

/-- `ops` if the option holds. -/
def opsIf (c : Bool) (ops : List HostOp) : List HostOp := if c then ops else []

/-- The erase of a run: bulk, or ranged (R153, R154). -/
def erasePass (bulk : Bool) (o s : Nat) : List HostOp := if bulk then bulkErase else rangedErase o s

/-- The passes between bring-up and teardown (R161). That a run's file is opened at their start is the model's choice
(log 32). -/
def passes (B : Buf) : Subcommand → List HostOp
  | .write disable skipErase bulk skipVerify o src =>
    .user .openSource ::
      (opsIf disable protectionDisable ++ opsIf (!skipErase) (erasePass bulk o src.length) ++ writePass o src ++
        opsIf (!skipVerify) (verifyPass o src B))
  | .check o src => .user .openSource :: verifyPass o src B
  | .read o s => .user .openSink :: readPass o s B
  | .erase disable bulk o s => opsIf disable protectionDisable ++ erasePass bulk o s
  | .disableProtection => protectionDisable
  | .test => []

/-- The abort path (R160): `ABORT` and no other request. The run stays a hardware error. -/
def abortPath (h : HostRun) : HostRun :=
  match step { h.st with queue := .request .abortReq :: h.st.queue } with
  | .next t => { h with st := t, entered := h.entered ++ [.aborted], status := .hardwareError }
  | .fault _ => { h with status := .stopped }
  | .refused _ => { h with status := .stopped }

/-- A run after its teardown: the result is the one it had before, unless the teardown ended otherwise. A HardwareError
of the teardown takes the abort path and is then the run's result, also after a VerifyError or a UserError, where both
rows of R162's table apply: the MODEL'S CHOICE (log 31); the earlier error stays in `reports`. -/
def afterTeardown (earlier : HostStatus) (u : HostRun) : HostRun :=
  match u.status with
  | .running => { u with status := earlier }
  | .hardwareError => abortPath u
  | .verifyError _ => u
  | .userError _ => u
  | .faulted _ => u
  | .stopped => u

/-- The teardown, which success, a verify error and a user error allow (R157, R160). -/
def orderlyEnd (h : HostRun) : HostRun := afterTeardown h.status (runOps teardown { h with status := .running })

/-- The end of a run (R159, R160). A user error before bring-up has opened no session and there is nothing to tear down:
the MODEL'S CHOICE (log 32). A fault or a stop ends the run where it is (log 21). -/
def finishRun (h : HostRun) : HostRun :=
  match h.status with
  | .running => orderlyEnd h
  | .verifyError _ => orderlyEnd h
  | .userError _ => if h.phase = .init then h else orderlyEnd h
  | .hardwareError => abortPath h
  | .faulted _ => h
  | .stopped => h

/-- A run of a subcommand from a state of the block, with the host reading into `B` and its own operations failing as
`userFails` says. The options are checked before bring-up: the model's choice (log 32). -/
def runSubcommand (slow : Bool) (B : Buf) (c : Subcommand) (userFails : Option Nat) (s : State) : HostRun :=
  finishRun (runOps (.user .checkOptions :: (bringUp slow ++ passes B c)) ⟨s, [.init], [], [], userFails, .running⟩)

/-- The exit code of a run (R162). A fault or a stop is no outcome of its table (log 21). -/
def exitCode : HostStatus → Option Nat
  | .running => some 0
  | .userError _ => some 1
  | .hardwareError => some 2
  | .verifyError _ => some 3
  | .faulted _ => none
  | .stopped => none

end Sys2Proof.Machine
end

