-- ==== Sys2Proof/Machine/HostRead.lean ====
section
/-! DEFINITION. The host's reads of the block's registers (10_state.md R18; 60_exceptions.md R172). A host read is no
request and no step: it changes nothing (log 16). -/

namespace Sys2Proof.Machine

/-- The registers of R18 by name. -/
inductive Reg where
  | session | handle | latSaved | latCaptured | slow | clkdiv | gpioVal | gpioDir | gpioInLo | gpioInHi | bitsIn
  | status | dbcnt | jedecMfr | jedecDev | jedecExtlen | jedecExt | flashPwr | err | warnlog | txlog
  deriving DecidableEq, Repr, Inhabited

/-- The value of a register, by the kind R18 gives it. -/
inductive RegVal where
  | session (v : Session)
  | bit (v : Bool)
  | byte (v : Byte)
  | half (v : BitVec 16)
  | count (v : Fin 3)
  | pair (v : Byte × Byte)
  | bytes (v : Bytes)
  | power (v : FlashPwr)
  | error (v : Option ErrRec)
  | warnings (v : List Warning)
  | events (v : List LinkEvent)
  deriving DecidableEq, Repr, Inhabited

/-- What a host read gives: a value, or the fault `F_UNDEFINED` on ⊥ (R18, R172). -/
inductive HostRead where
  | value (v : RegVal)
  | faulted (f : FCode)
  deriving DecidableEq, Repr, Inhabited

/-- A register that may hold ⊥. -/
def orUndefined {α : Type} (mk : α → RegVal) : Option α → HostRead
  | none => .faulted .undefined
  | some v => .value (mk v)

/-- The host reads a register. -/
def hostRead (r : Reg) (s : State) : HostRead :=
  match r with
  | .session => .value (.session s.session)
  | .handle => .value (.bit s.handle)
  | .latSaved => orUndefined .byte s.latSaved
  | .latCaptured => .value (.bit s.latCaptured)
  | .slow => orUndefined .bit s.slow
  | .clkdiv => orUndefined .half s.clkdiv
  | .gpioVal => orUndefined .byte s.gpioVal
  | .gpioDir => orUndefined .byte s.gpioDir
  | .gpioInLo => orUndefined .byte s.gpioInLo
  | .gpioInHi => orUndefined .byte s.gpioInHi
  | .bitsIn => orUndefined .byte s.bitsIn
  | .status => orUndefined .byte s.status
  | .dbcnt => .value (.count s.dbcnt)
  | .jedecMfr => orUndefined .byte s.jedecMfr
  | .jedecDev => orUndefined .pair s.jedecDev
  | .jedecExtlen => orUndefined .byte s.jedecExtlen
  | .jedecExt => orUndefined .bytes s.jedecExt
  | .flashPwr => .value (.power s.flashPwr)
  | .err => .value (.error s.err)
  | .warnlog => .value (.warnings s.warnlog)
  | .txlog => .value (.events s.txlog)

end Sys2Proof.Machine
end

