-- ==== Sys2Proof/Machine/TxStream.lean ====
section
/-! DEFINITION. The two link streams as `TXLOG` shows them (10_state.md R38; 20_memory.md R42, R43) and the splitting of
the TX stream into frames (30_encoding.md R80). -/

namespace Sys2Proof.Machine

/-- The bytes one event gave the bridge: those of a write that it received (R38, R61). -/
def eventTx : LinkEvent → Bytes
  | .write bs _ got => bs.take got
  | .read _ => []
  | .ctrl _ _ => []
  | .idle _ => []

/-- "The byte stream the bridge receives" (R38). -/
def txBytes (log : List LinkEvent) : Bytes := log.flatMap eventTx

/-- The byte one event took from the RX stream (R43, R62). -/
def eventRx : LinkEvent → Bytes
  | .read (.byte b) => [b]
  | .read (.negative _) => []
  | .read .empty => []
  | .write _ _ _ => []
  | .ctrl _ _ => []
  | .idle _ => []

/-- The bytes read from the RX stream. -/
def rxBytes (log : List LinkEvent) : Bytes := log.flatMap eventRx

/-- The response bytes a link frame asks for (R80, "response bytes"); `none` for what is no link frame. -/
def responseBytes : Instr → Option Nat
  | .lfBo _ => some 0
  | .lfBx p => some p.length
  | .lfBits _ _ => some 1
  | .lfGset _ => some 0
  | .lfGrdLow => some 1
  | .lfGrdHigh => some 1
  | .lfClk5 => some 0
  | .lfDiv _ => some 0
  | .spiWriteEnable => none
  | .spiReadStatus1 => none
  | .spiWriteStatus => none
  | .spiPageProgram _ _ => none
  | .spiBlockErase64K _ => none
  | .spiChipErase => none
  | .spiPowerDown => none
  | .spiReleasePowerDown => none
  | .spiJedecId => none
  | .spiReadData _ _ => none
  | .spiReset => none
  | .openReq _ => none
  | .closeReq => none
  | .abortReq => none
  | .send _ _ => none
  | .xfer _ _ _ => none
  | .xbits _ _ => none
  | .setGpio _ _ => none
  | .rdGpioL => none
  | .rdGpioH => none
  | .select => none
  | .deselect => none
  | .release => none
  | .bsend _ _ => none
  | .bxfer _ _ => none
  | .freset => none
  | .fpup => none
  | .fpdn => none
  | .rdsr => none
  | .wren => none
  | .ce => none
  | .be64k _ => none
  | .pp _ _ _ => none
  | .read _ _ _ => none
  | .waitBusy => none
  | .disProt => none
  | .rdId => none

/-- Split a TX stream into its frames (R80); `none` if it is no sequence of whole link frames. Each frame has at least
one byte, so `fuel` = the length is enough. -/
def splitFrames : Nat → Bytes → Option (List Instr)
  | _, [] => some []
  | 0, _ :: _ => none
  | fuel + 1, b :: bs =>
    match decode (b :: bs) with
    | .ok i rest => if (responseBytes i).isSome then (splitFrames fuel rest).map (i :: ·) else none
    | .bad _ => none

/-- The frames of a TX stream. -/
def framesOf (bs : Bytes) : Option (List Instr) := splitFrames bs.length bs

end Sys2Proof.Machine
end

