-- ==== Sys2Proof/Safety.lean ====
section
/-! DEFINITION. The terms claims about the block are stated in: the invariant of its registers, the link events of the
frames and transactions (30_encoding.md R89), the layer of each request (60_exceptions.md R166), the table of which
request writes which register (10_state.md R40), and the failing event of each cause (R165, R168). -/

namespace Sys2Proof.Machine

/-! The state after link events. -/

/-- `s` after the link events `evs`, with `w`, `r` and `c` the transport's answers still to come and `d` the number of
free answers drawn. -/
def State.linked (s : State) (evs : List LinkEvent) (w : List WriteAns) (r : List ReadAns) (c : List CtrlAns)
    (d : Nat) : State :=
  { s with txlog := s.txlog ++ evs, writes := w, reads := r, ctrls := c, drawn := d }

/-- `s` after the link events `evs`, for some answers still to come: nothing but `TXLOG` and the oracle differs. -/
def LinkedTo (s t : State) (evs : List LinkEvent) : Prop :=
  ∃ w r c d, t = s.linked evs w r c d

/-- `s` after link events of which only writes were answered from the held answers: `w` are left. -/
abbrev State.sent (s : State) (evs : List LinkEvent) (w : List WriteAns) : State :=
  s.linked evs w s.reads s.ctrls s.drawn

/-- `s` after link events, with the write answers `w` and the read answers `r` left. -/
abbrev State.moved (s : State) (evs : List LinkEvent) (w : List WriteAns) (r : List ReadAns) : State :=
  s.linked evs w r s.ctrls s.drawn

/-- `s` after control events, with the control answers `c` left. -/
abbrev State.controlled (s : State) (evs : List LinkEvent) (c : List CtrlAns) : State :=
  s.linked evs s.writes s.reads c s.drawn

/-! The link events of frames. -/

/-- A successful write call. -/
def wrote (bs : Bytes) : LinkEvent := .write bs bs.length bs.length

/-- The two write calls of a byte frame (40_engine.md R101, R103); none for no payload (R102). -/
def frameEvents (op : Byte) (payload : Bytes) : List LinkEvent :=
  if payload = [] then [] else [wrote (byteHeader op payload.length), wrote payload]

/-- The write call of a set-GPIO frame (R106). -/
def gsetEvent (v : Byte) : LinkEvent := wrote [0x80, v, Config.gpioDirMask]

/-- Received bytes, each read at once. -/
def readEvents (bs : Bytes) : List LinkEvent := bs.map fun b => .read (.byte b)

/-- `j` empty polls of `RECV1`, each followed by its wait (R100). -/
def emptyPolls : Nat → List LinkEvent
  | 0 => []
  | j + 1 => .read .empty :: .idle .rx :: emptyPolls j

/-- `j` empty polls before a byte fit: below a finite `POLL_BOUND` (none always fit, R100), else within the turns the
model follows (log 4). -/
def PollsFit (o : Options) (j : Nat) : Prop :=
  match o.pollBound with
  | none => j ≤ o.fuel
  | some p => j = 0 ∨ j < p

/-- `n` status polls of one busy wait fit: within a finite `BUSY_BOUND` (R137), else within the turns the model follows
(log 4). -/
def BusyFit (o : Options) (n : Nat) : Prop :=
  match o.busyBound with
  | none => n ≤ o.fuel + 1
  | some b => n ≤ b

/-- The read answers that deliver bytes, each after its number of empty polls. -/
def delayedReads : List (Nat × Byte) → List ReadAns
  | [] => []
  | d :: ds => List.replicate d.1 .empty ++ .byte d.2 :: delayedReads ds

/-- The events of receiving those bytes (R100, R103). -/
def delayedEvents : List (Nat × Byte) → List LinkEvent
  | [] => []
  | d :: ds => emptyPolls d.1 ++ .read (.byte d.2) :: delayedEvents ds

/-- A transaction's events: the chip-select bracket around `body` (42_flash_commands.md R124). -/
def txnEvents (body : List LinkEvent) : List LinkEvent :=
  gsetEvent Config.gpioSelect :: body ++ [gsetEvent Config.gpioDeselect]

/-- A write-only transaction of one frame (R89). -/
def sendTxn (bs : Bytes) : List LinkEvent := txnEvents (frameEvents 0x11 bs)

/-- The status transaction with the received bytes `b0` and `sr` (R89, R129). -/
def statusTxn (b0 sr : Byte) : List LinkEvent :=
  txnEvents (frameEvents 0x31 [0x05, 0x00] ++ readEvents [b0, sr])

/-- `RDSR`'s events: the status transaction and its trailing wait (R129). -/
def rdsrEvents (b0 sr : Byte) : List LinkEvent := statusTxn b0 sr ++ [.idle .status]

/-- The polls of a `WAITBUSY` as pairs (discarded byte, status). -/
def pollEvents : List (Byte × Byte) → List LinkEvent
  | [] => []
  | p :: ps => rdsrEvents p.1 p.2 ++ pollEvents ps

/-- The read answers that deliver those polls. -/
def pollReads : List (Byte × Byte) → List ReadAns
  | [] => []
  | p :: ps => .byte p.1 :: .byte p.2 :: pollReads ps

/-- Every byte read at once. -/
def byteReads (bs : Bytes) : List ReadAns := bs.map .byte

/-- The status reports of polls, logged only under `VERBOSE` (R136). -/
def pollReports (verbose : Bool) (ps : List (Byte × Byte)) : List StatusReport :=
  if verbose then ps.map fun p => statusReport p.2 else []

/-- Whether two polls that follow each other in `ps` both read not-busy (43_status_poll_jedec.md R138). -/
def hasQuietPair : List (Byte × Byte) → Bool
  | [] => false
  | [_] => false
  | p :: q :: r => (!statusBusy p.2 && !statusBusy q.2) || hasQuietPair (q :: r)

/-- The state after polls that went through (R129, R137). -/
def State.polled (s : State) (ps : List (Byte × Byte)) (sr : Byte) (d : Fin 3) (w : List WriteAns)
    (r : List ReadAns) : State :=
  { s.moved (pollEvents ps) w r with
    gpioVal := some Config.gpioDeselect
    gpioDir := some Config.gpioDirMask
    status := some sr
    dbcnt := d
    reports := s.reports ++ pollReports s.opts.verbose ps }

/-- `s` after a finished transaction: the events, chip-select deasserted and the board in reset (R124). -/
def State.bracketed (s : State) (evs : List LinkEvent) (w : List WriteAns) (r : List ReadAns) : State :=
  { s.moved evs w r with gpioVal := some Config.gpioDeselect, gpioDir := some Config.gpioDirMask }

/-- The board is already held in reset (R114). -/
def InReset (s : State) : Prop := ∃ g, s.gpioVal = some g ∧ g.getLsbD Config.cresetBit = false

/-- The three address bytes of an address operand, most significant first (R13, R50). -/
def addr3 (a : Nat) : Bytes := [BitVec.ofNat 8 (a / 65536), BitVec.ofNat 8 (a / 256), BitVec.ofNat 8 a]

/-- The six control calls of `OPEN`, in order (R97). -/
def openCalls : List CtrlOp :=
  [.acquire, .resetDevice, .purge, .getLatency, .setLatency Config.latFast,
   .setBitmode Config.gpioDirAllOut .mpsse]

/-- The events of control calls with their answers, in order. -/
def ctrlEvents (ops : List CtrlOp) (as : List CtrlAns) : List LinkEvent :=
  List.zipWith (fun o a => .ctrl o (ctrlResult o a)) ops as

/-- The flash requests whose only fault checks are F_SESSION and F_CS_ORDER (60_exceptions.md R173), with the
transactions of that shape. -/
def plainFlash : List Instr :=
  [.freset, .fpup, .fpdn, .rdsr, .wren, .ce, .waitBusy, .disProt, .rdId, .spiWriteEnable, .spiReadStatus1,
   .spiWriteStatus, .spiChipErase, .spiPowerDown, .spiReleasePowerDown, .spiJedecId, .spiReset]

/-! The invariant. -/

/-- What holds of the registers at block reset and after every step. -/
structure Inv (s : State) : Prop where
  /-- Host memory is in its canonical form. -/
  memory : Memory.wf s.mem = true
  /-- Chip-select is asserted only while the board is held in reset (41_gpio_mux.md R114, R115). -/
  chipSelect : ∀ v, s.gpioVal = some v → v.getLsbD Config.csBit = false → v.getLsbD Config.cresetBit = false
  /-- With a GPIO value written, the direction is 0x93 (10_state.md R26). -/
  direction : ∀ v, s.gpioVal = some v → s.gpioDir = some Config.gpioDirMask
  /-- An open session holds the handle and the captured latency timer, and has no error (R21 to R23, R36). -/
  openSession : s.session = .opened → s.handle = true ∧ s.latCaptured = true ∧ s.err = none
  /-- A captured latency timer has its value, and the handle is held (R23). -/
  captured : s.latCaptured = true → s.handle = true ∧ ∃ v, s.latSaved = some v
  /-- A closed session holds no handle (R22). -/
  closedSession : s.session = .closed → s.handle = false
  /-- A failed session has its error (60_exceptions.md R167). -/
  failedSession : s.session = .failed → ∃ e, s.err = some e
  /-- `CLKDIV` is the divisor `SLOW` selects (R24). -/
  divisor : s.clkdiv = s.slow.map divisorOf
  /-- The length of `JEDEC_EXT` (R34). -/
  extended : ∀ e, s.jedecExt = some e →
    ∃ l, s.jedecExtlen = some l ∧ e.length = if l = 0x00 ∨ l = Config.jedecGlitch then 0 else l.toNat

/-! Layers and failing events. -/

/-- The layer a request raises at: "the family of the request the host issued" (R166). -/
def layerOf : Instr → Layer
  | .lfBo _ => .engine
  | .lfBx _ => .engine
  | .lfBits _ _ => .engine
  | .lfGset _ => .engine
  | .lfGrdLow => .engine
  | .lfGrdHigh => .engine
  | .lfClk5 => .engine
  | .lfDiv _ => .engine
  | .spiWriteEnable => .flash
  | .spiReadStatus1 => .flash
  | .spiWriteStatus => .flash
  | .spiPageProgram _ _ => .flash
  | .spiBlockErase64K _ => .flash
  | .spiChipErase => .flash
  | .spiPowerDown => .flash
  | .spiReleasePowerDown => .flash
  | .spiJedecId => .flash
  | .spiReadData _ _ => .flash
  | .spiReset => .flash
  | .openReq _ => .engine
  | .closeReq => .engine
  | .abortReq => .engine
  | .send _ _ => .engine
  | .xfer _ _ _ => .engine
  | .xbits _ _ => .engine
  | .setGpio _ _ => .engine
  | .rdGpioL => .engine
  | .rdGpioH => .engine
  | .select => .bus
  | .deselect => .bus
  | .release => .bus
  | .bsend _ _ => .bus
  | .bxfer _ _ => .bus
  | .freset => .flash
  | .fpup => .flash
  | .fpdn => .flash
  | .rdsr => .flash
  | .wren => .flash
  | .ce => .flash
  | .be64k _ => .flash
  | .pp _ _ _ => .flash
  | .read _ _ _ => .flash
  | .waitBusy => .flash
  | .disProt => .flash
  | .rdId => .flash

/-- Whether a link event is the one whose failure has the given cause (R165). A busy wait's bound is reached at the end
of a status poll, whose last event is its wait. -/
def failingEvent : Cause → LinkEvent → Bool
  | .ctrlFail, .ctrl _ r => decide (r = .failure)
  | .shortWrite, .write bs c _ => decide (c ≠ bs.length)
  | .readNeg, .read (.negative _) => true
  | .pollBound, .read .empty => true
  | .busyBound, .idle t => decide (t = .status)
  | _, _ => false

/-- Whether a link event failed: a write whose count is not its length, a read of a negative count, a control call that
answered failure (R165). -/
def eventFailed : LinkEvent → Bool
  | .write bs c _ => decide (c ≠ bs.length)
  | .read (.negative _) => true
  | .read .empty => false
  | .read (.byte _) => false
  | .ctrl _ r => decide (r = .failure)
  | .idle _ => false

/-! Which request writes which register. -/

/-- The GPIO registers. -/
def gpioRegs : List Reg := [.gpioVal, .gpioDir]

/-- The registers `OPEN` writes (40_engine.md R97). -/
def openRegs : List Reg :=
  [.session, .handle, .latSaved, .latCaptured, .slow, .clkdiv, .gpioVal, .gpioDir, .gpioInLo, .gpioInHi, .bitsIn,
   .status, .jedecMfr, .jedecDev, .jedecExtlen, .jedecExt, .flashPwr, .err]

/-- The registers of the JEDEC parser (10_state.md R34) with those of its transaction and its warning. -/
def jedecRegs : List Reg := [.jedecMfr, .jedecDev, .jedecExtlen, .jedecExt, .gpioVal, .gpioDir, .warnlog]

/-- The table of R40: the registers a request may write, but for `TXLOG`, which every link event extends (R38), and
`SESSION` and `ERR`, which any raise writes. -/
def writeSet : Instr → List Reg
  | .lfBo _ => []
  | .lfBx _ => []
  | .lfBits _ _ => [.bitsIn]
  | .lfGset _ => gpioRegs
  | .lfGrdLow => [.gpioInLo]
  | .lfGrdHigh => [.gpioInHi]
  | .lfClk5 => []
  | .lfDiv _ => [.slow, .clkdiv]
  | .spiWriteEnable => gpioRegs
  | .spiReadStatus1 => .status :: gpioRegs
  | .spiWriteStatus => gpioRegs
  | .spiPageProgram _ _ => gpioRegs
  | .spiBlockErase64K _ => gpioRegs
  | .spiChipErase => gpioRegs
  | .spiPowerDown => .flashPwr :: gpioRegs
  | .spiReleasePowerDown => .flashPwr :: gpioRegs
  | .spiJedecId => jedecRegs
  | .spiReadData _ _ => gpioRegs
  | .spiReset => gpioRegs
  | .openReq _ => openRegs
  | .closeReq => [.session, .handle, .latCaptured]
  | .abortReq => [.session, .handle, .latCaptured, .warnlog]
  | .send _ _ => []
  | .xfer _ _ _ => []
  | .xbits _ _ => [.bitsIn]
  | .setGpio _ _ => gpioRegs
  | .rdGpioL => [.gpioInLo]
  | .rdGpioH => [.gpioInHi]
  | .select => gpioRegs
  | .deselect => gpioRegs
  | .release => gpioRegs
  | .bsend _ _ => []
  | .bxfer _ _ => []
  | .freset => gpioRegs
  | .fpup => .flashPwr :: gpioRegs
  | .fpdn => .flashPwr :: gpioRegs
  | .rdsr => .status :: gpioRegs
  | .wren => .status :: gpioRegs
  | .ce => gpioRegs
  | .be64k _ => gpioRegs
  | .pp _ _ _ => gpioRegs
  | .read _ _ _ => gpioRegs
  | .waitBusy => .status :: .dbcnt :: gpioRegs
  | .disProt => .status :: .dbcnt :: .warnlog :: gpioRegs
  | .rdId => jedecRegs

/-- The first address and the number of the bytes of host memory an instruction stores to (20_memory.md R47). -/
def storeRange : Instr → Nat × Nat
  | .xfer _ b n => (b.base, n)
  | .bxfer b n => (b.base, bufCount n b)
  | .read _ b n => (b.base, n)
  | .lfBo _ => (0, 0)
  | .lfBx _ => (0, 0)
  | .lfBits _ _ => (0, 0)
  | .lfGset _ => (0, 0)
  | .lfGrdLow => (0, 0)
  | .lfGrdHigh => (0, 0)
  | .lfClk5 => (0, 0)
  | .lfDiv _ => (0, 0)
  | .spiWriteEnable => (0, 0)
  | .spiReadStatus1 => (0, 0)
  | .spiWriteStatus => (0, 0)
  | .spiPageProgram _ _ => (0, 0)
  | .spiBlockErase64K _ => (0, 0)
  | .spiChipErase => (0, 0)
  | .spiPowerDown => (0, 0)
  | .spiReleasePowerDown => (0, 0)
  | .spiJedecId => (0, 0)
  | .spiReadData _ _ => (0, 0)
  | .spiReset => (0, 0)
  | .openReq _ => (0, 0)
  | .closeReq => (0, 0)
  | .abortReq => (0, 0)
  | .send _ _ => (0, 0)
  | .xbits _ _ => (0, 0)
  | .setGpio _ _ => (0, 0)
  | .rdGpioL => (0, 0)
  | .rdGpioH => (0, 0)
  | .select => (0, 0)
  | .deselect => (0, 0)
  | .release => (0, 0)
  | .bsend _ _ => (0, 0)
  | .freset => (0, 0)
  | .fpup => (0, 0)
  | .fpdn => (0, 0)
  | .rdsr => (0, 0)
  | .wren => (0, 0)
  | .ce => (0, 0)
  | .be64k _ => (0, 0)
  | .pp _ _ _ => (0, 0)
  | .waitBusy => (0, 0)
  | .disProt => (0, 0)
  | .rdId => (0, 0)

/-! Frames of the TX stream. -/

/-- The frames the block may emit: a well-formed link frame (30_encoding.md R80), and a divisor of 0 or 119 (R83). -/
def emittable (f : Instr) : Prop :=
  (responseBytes f).isSome = true ∧ f.wf = true ∧ ∀ d, f = .lfDiv d → d = Config.divFull ∨ d = Config.divSlow

/-- The bytes of a list of frames. -/
def framesBytes (fs : List Instr) : Bytes := fs.flatMap fun f => (encode f).getD []

/-- The response bytes a list of frames asks for (R80). -/
def framesResponse (fs : List Instr) : Nat := (fs.map fun f => (responseBytes f).getD 0).sum

end Sys2Proof.Machine
end

