-- ==== Sys2Proof/Certificates/Slice0/Obligations.lean ====
section
/-! DEFINITION. The statements for the provers, one definition each; OBLIGATIONS.json lists them. Each docstring names
the rules of spec/ the statement rests on. -/

open Sys2Proof Sys2Proof.Machine

/-! Reset, the invariant, the step. -/

/-- R188, R18: block reset sets every register to its reset value and makes no link event; "the only request it admits
after reset is OPEN, or ABORT, which does nothing there". The frame and transaction rows count as requests (logs 9 and
11); the answer is the model's field (log 17). -/
def Obligations.ResetRegisters : Prop :=
  (State.reset.session = .closed ∧ State.reset.handle = false ∧ State.reset.latCaptured = false ∧
    State.reset.dbcnt = 0 ∧ State.reset.flashPwr = .unknown ∧ State.reset.err = none ∧ State.reset.warnlog = [] ∧
    State.reset.txlog = []) ∧
  (∀ r ∈ [Reg.latSaved, .slow, .clkdiv, .gpioVal, .gpioDir, .gpioInLo, .gpioInHi, .bitsIn, .status, .jedecMfr, .jedecDev,
    .jedecExtlen, .jedecExt], hostRead r State.reset = .faulted .undefined) ∧
  (∀ slow, ∃ t, exec (.openReq slow) State.reset = .next t ∧ ∀ f, t.answer ≠ .faulted f) ∧
  exec .abortReq State.reset = .next (State.reset.reply (.done .unit)) ∧
  (∀ i, i ≠ .abortReq → (∀ slow, i ≠ .openReq slow) →
    exec i State.reset = .next (State.reset.reply (.faulted .session)))

/-- The invariant `Inv` holds at block reset. -/
def Obligations.InvariantAtReset : Prop := Inv State.reset

/-- The invariant `Inv` is kept by every step (R21 to R26, R34, R114, R167). -/
def Obligations.InvariantKept : Prop := ∀ s t : State, Inv s → step s = .next t → Inv t

/-- A step runs the request at the front of the request stream (R20, R69). That the stream may also hold bytes of frames
and transactions, run as the instruction one decoder reads from them with the bytes after it left in front, is the
model's choice (logs 9, 19); so are the refusal of undecodable bytes by name (log 30) and that with no request the
machine stays as it is (log 18). -/
def Obligations.StepRunsInstruction : Prop :=
  (∀ s i q, s.queue = .request i :: q → step s = exec i { s with queue := q }) ∧
  (∀ s bs i q, s.queue = .bytes bs :: q → decode bs = .ok i [] → step s = exec i { s with queue := q }) ∧
  (∀ s bs i b rest q, s.queue = .bytes bs :: q → decode bs = .ok i (b :: rest) →
    step s = exec i { s with queue := .bytes (b :: rest) :: q }) ∧
  (∀ s bs e q, s.queue = .bytes bs :: q → decode bs = .bad e → step s = .refused (.undecodable e)) ∧
  (∀ s, s.queue = [] → step s = .next s)

/-! The session, faults and raises. -/

/-- R21: the transitions of `SESSION`, and the state each request requires. The table's frame and transaction rows count
as requests of an open session (the model's choice, logs 9 and 11). -/
def Obligations.SessionRule : Prop :=
  (∀ i s, i ≠ .abortReq → (∀ slow, i ≠ .openReq slow) → s.session ≠ .opened →
    exec i s = .next (s.reply (.faulted .session))) ∧
  (∀ slow s, s.session ≠ .closed → exec (.openReq slow) s = .next (s.reply (.faulted .session))) ∧
  (∀ slow s t r, exec (.openReq slow) s = .next t → t.answer = .done r → s.session = .closed ∧ t.session = .opened) ∧
  (∀ i s t e, exec i s = .next t → t.answer = .raised e →
    (s.session = .closed ∨ s.session = .opened) ∧ t.session = .failed) ∧
  (∀ s t r, exec .closeReq s = .next t → t.answer = .done r → s.session = .opened ∧ t.session = .closed) ∧
  (∀ s t, exec .abortReq s = .next t → t.session = .closed) ∧
  (∀ i s t r, i ≠ .abortReq → i ≠ .closeReq → (∀ slow, i ≠ .openReq slow) → exec i s = .next t →
    t.answer = .done r → t.session = s.session) ∧
  (∀ i s t f, exec i s = .next t → t.answer = .faulted f → t.session = s.session)

/-- R169: a failed session admits only `ABORT`; `ERR` is kept through `ABORT` and until a successful `OPEN`. The frame and
transaction rows count as requests (the model's choice, logs 9 and 11). -/
def Obligations.FailedSession : Prop :=
  (∀ i s, s.session = .failed → i ≠ .abortReq → exec i s = .next (s.reply (.faulted .session))) ∧
  (∀ s t, exec .abortReq s = .next t → t.err = s.err ∧ t.answer = .done .unit) ∧
  (∀ i s t, s.session ≠ .opened → (∀ slow, i ≠ .openReq slow) → exec i s = .next t → t.err = s.err) ∧
  (∀ slow s t r, exec (.openReq slow) s = .next t → t.answer = .done r → t.err = none)

/-- R171: a faulted request performs no link event and writes no register; the answer, which hands the fault to the host
(the model's field, log 17), alone differs. -/
def Obligations.FaultChangesNothing : Prop :=
  ∀ i s t f, exec i s = .next t → t.answer = .faulted f → t = s.reply (.faulted f)

/-- R166, R167, R177: a raise latches (class, cause, layer) in `ERR` and makes the session FAILED; the layer is that of
the request the host issued. For the table's frame and transaction rows the layer is the model's choice (log 9). -/
def Obligations.RaiseLatchesError : Prop :=
  ∀ i s t e, exec i s = .next t → t.answer = .raised e →
    t.err = some e ∧ t.session = .failed ∧ e.cls = .hardwareError ∧ e.layer = layerOf i

/-- R168: after a raise `TXLOG` ends with the failing event of its cause (R165). -/
def Obligations.RaiseEndsLog : Prop :=
  ∀ i s t e, exec i s = .next t → t.answer = .raised e →
    ∃ evs x, t.txlog = s.txlog ++ evs ++ [x] ∧ failingEvent e.cause x = true

/-- R99, R109, R167, R173: the first link event that fails is the last one of the request, and the request raises
exactly then (or at a bound). `ABORT` ignores failures (R111). -/
def Obligations.FirstFailureRaises : Prop :=
  ∀ i s t evs, i ≠ .abortReq → exec i s = .next t → t.txlog = s.txlog ++ evs →
    (∀ e ∈ evs.dropLast, eventFailed e = false) ∧
    ((∃ e ∈ evs, eventFailed e = true) ↔
      ∃ c l, t.answer = .raised ⟨.hardwareError, c, l⟩ ∧ (c = .ctrlFail ∨ c = .shortWrite ∨ c = .readNeg))

/-! Frames. -/

/-- R37, R38, R136: the logs only grow; no request changes the parameters or the rest of the request stream (R10,
R69). -/
def Obligations.LogsOnlyGrow : Prop :=
  ∀ i s t, exec i s = .next t →
    s.txlog <+: t.txlog ∧ s.warnlog <+: t.warnlog ∧ s.reports <+: t.reports ∧ t.queue = s.queue ∧ t.opts = s.opts

/-- R40: no request changes a register outside its row (`writeSet`), but for `TXLOG`, and `SESSION` and `ERR` on a
raise; `WREN` without `VERBOSE` leaves `STATUS` too. -/
def Obligations.RegisterFrame : Prop :=
  (∀ i s t, exec i s = .next t → ∀ r, r ∉ writeSet i → r ≠ .txlog →
    ((∀ e, t.answer ≠ .raised e) ∨ (r ≠ .session ∧ r ≠ .err)) → hostRead r t = hostRead r s) ∧
  (∀ s t, exec .wren s = .next t → s.opts.verbose = false → t.status = s.status)

/-- R47: every byte of host memory outside the request's buffer range (`storeRange`) reads as before. -/
def Obligations.MemoryFrame : Prop :=
  ∀ i s t, exec i s = .next t → ∀ a,
    ¬((storeRange i).1 ≤ a ∧ a < (storeRange i).1 + (storeRange i).2) → memRead t.mem a = memRead s.mem a

/-- R80, R81, R90, R205: a done request other than `ABORT` clocks out whole link frames of the eight opcodes and reads
exactly the responses they ask for; `ABORT` writes nothing. -/
def Obligations.FramesAndResponses : Prop :=
  ∀ i s t r evs, exec i s = .next t → t.answer = .done r → t.txlog = s.txlog ++ evs →
    (i ≠ .abortReq → ∃ fs, (∀ f ∈ fs, emittable f) ∧ txBytes evs = framesBytes fs ∧
      (rxBytes evs).length = framesResponse fs) ∧
    (i = .abortReq → txBytes evs = [])

/-- R124, R171: a done flash request leaves chip-select deasserted and the board in reset; a raised one leaves
`GPIO_VAL` 0x00 or ⊥ (a busy bound is reached between transactions, R137). -/
def Obligations.FlashLines : Prop :=
  ∀ i s t, layerOf i = .flash → exec i s = .next t →
    ((∃ r, t.answer = .done r) → t.gpioVal = some 0x10) ∧
    (∀ e, t.answer = .raised e → e.cause ≠ .busyBound → t.gpioVal = none ∨ t.gpioVal = some 0x00)

/-- R18, R172, R29: a host read of one of the thirteen registers that may hold ⊥ gives exactly the value held and faults
`F_UNDEFINED` exactly on ⊥; of the other eight it gives the value; CDONE is bit 6 of `GPIO_IN_LO`. -/
def Obligations.HostReads : Prop :=
  ∀ s : State,
    (∀ v, hostRead .latSaved s = .value (.byte v) ↔ s.latSaved = some v) ∧
    (∀ v, hostRead .slow s = .value (.bit v) ↔ s.slow = some v) ∧
    (∀ v, hostRead .clkdiv s = .value (.half v) ↔ s.clkdiv = some v) ∧
    (∀ v, hostRead .gpioVal s = .value (.byte v) ↔ s.gpioVal = some v) ∧
    (∀ v, hostRead .gpioDir s = .value (.byte v) ↔ s.gpioDir = some v) ∧
    (∀ v, hostRead .gpioInLo s = .value (.byte v) ↔ s.gpioInLo = some v) ∧
    (∀ v, hostRead .gpioInHi s = .value (.byte v) ↔ s.gpioInHi = some v) ∧
    (∀ v, hostRead .bitsIn s = .value (.byte v) ↔ s.bitsIn = some v) ∧
    (∀ v, hostRead .status s = .value (.byte v) ↔ s.status = some v) ∧
    (∀ v, hostRead .jedecMfr s = .value (.byte v) ↔ s.jedecMfr = some v) ∧
    (∀ v, hostRead .jedecDev s = .value (.pair v) ↔ s.jedecDev = some v) ∧
    (∀ v, hostRead .jedecExtlen s = .value (.byte v) ↔ s.jedecExtlen = some v) ∧
    (∀ v, hostRead .jedecExt s = .value (.bytes v) ↔ s.jedecExt = some v) ∧
    (hostRead .latSaved s = .faulted .undefined ↔ s.latSaved = none) ∧
    (hostRead .slow s = .faulted .undefined ↔ s.slow = none) ∧
    (hostRead .clkdiv s = .faulted .undefined ↔ s.clkdiv = none) ∧
    (hostRead .gpioVal s = .faulted .undefined ↔ s.gpioVal = none) ∧
    (hostRead .gpioDir s = .faulted .undefined ↔ s.gpioDir = none) ∧
    (hostRead .gpioInLo s = .faulted .undefined ↔ s.gpioInLo = none) ∧
    (hostRead .gpioInHi s = .faulted .undefined ↔ s.gpioInHi = none) ∧
    (hostRead .bitsIn s = .faulted .undefined ↔ s.bitsIn = none) ∧
    (hostRead .status s = .faulted .undefined ↔ s.status = none) ∧
    (hostRead .jedecMfr s = .faulted .undefined ↔ s.jedecMfr = none) ∧
    (hostRead .jedecDev s = .faulted .undefined ↔ s.jedecDev = none) ∧
    (hostRead .jedecExtlen s = .faulted .undefined ↔ s.jedecExtlen = none) ∧
    (hostRead .jedecExt s = .faulted .undefined ↔ s.jedecExt = none) ∧
    hostRead .session s = .value (.session s.session) ∧
    hostRead .handle s = .value (.bit s.handle) ∧
    hostRead .latCaptured s = .value (.bit s.latCaptured) ∧
    hostRead .dbcnt s = .value (.count s.dbcnt) ∧
    hostRead .flashPwr s = .value (.power s.flashPwr) ∧
    hostRead .err s = .value (.error s.err) ∧
    hostRead .warnlog s = .value (.warnings s.warnlog) ∧
    hostRead .txlog s = .value (.events s.txlog) ∧
    (∀ v, s.gpioInLo = some v → cdone s = some (v.getLsbD 6)) ∧
    (s.gpioInLo = none → cdone s = none)

/-! Encodings. -/

/-- R73 to R80, R87, R88: the decoder reads every well-formed link frame and SPI transaction back from its bytes; a
link frame also with the next frame's bytes behind it (R71). -/
def Obligations.DecodeEncode : Prop :=
  (∀ i bs, i.wf = true → encode i = some bs → decode bs = .ok i []) ∧
  (∀ i bs rest, i.wf = true → encode i = some bs → (responseBytes i).isSome = true →
    decode (bs ++ rest) = .ok i rest)

/-- R80, R82: whatever the decoder reads as a link frame is well formed and its bytes are that frame's encoding. -/
def Obligations.EncodeDecode : Prop :=
  ∀ bs i rest, decode bs = .ok i rest → (responseBytes i).isSome = true →
    i.wf = true ∧ ∃ p, encode i = some p ∧ bs = p ++ rest

/-- R73 to R79, R88: words written out from the encoding tables decode to the instruction they stand for. -/
def Obligations.SampleWords : Prop :=
  decode [0x11, 0x00, 0x00, 0x06] = .ok (.lfBo [0x06]) [] ∧
  decode [0x31, 0x01, 0x00, 0x05, 0x00] = .ok (.lfBx [0x05, 0x00]) [] ∧
  decode [0x33, 0x02, 0xA0] = .ok (.lfBits 2 0xA0) [] ∧
  decode [0x80, 0x10, 0x93] = .ok (.lfGset 0x10) [] ∧
  decode [0x81] = .ok .lfGrdLow [] ∧
  decode [0x83] = .ok .lfGrdHigh [] ∧
  decode [0x8B] = .ok .lfClk5 [] ∧
  decode [0x86, 0x77, 0x00] = .ok (.lfDiv 119) [] ∧
  decode [0xD8, 0x01, 0x23, 0x45] = .ok (.spiBlockErase64K 0x012345) [] ∧
  decode [0x9F, 0x00, 0x00, 0x00, 0x00] = .ok .spiJedecId []

/-- R80, R88, R91: a first byte that is neither one of the eight link opcodes nor one of the eleven SPI opcodes is
refused by name, whatever follows. That the decoder answers both levels is the model's choice (log 9). -/
def Obligations.ReservedOpcodes : Prop :=
  ∀ (op : Byte) (r : Bytes),
    op ∉ [(0x11 : Byte), 0x31, 0x33, 0x80, 0x81, 0x83, 0x8B, 0x86, 0x06, 0x05, 0x01, 0x02, 0xD8, 0xC7, 0xB9, 0xAB, 0x9F,
      0x03, 0xFF] → decode (op :: r) = .bad (.opcode op)

/-- R80: the TX stream splits back into the frames it was made of. -/
def Obligations.SplitFrames : Prop :=
  ∀ fs : List Instr, (∀ f ∈ fs, f.wf = true ∧ (responseBytes f).isSome = true) →
    framesOf (framesBytes fs) = some fs

/-! OPEN, CLOSE, ABORT. -/

/-- R97: `OPEN` with every transport call answered completes: its eight events in order, and its registers. -/
def Obligations.OpenCompletes : Prop :=
  ∀ (s : State) (slow : Bool) (a1 a2 a3 v a5 a6 : Byte) (c : List CtrlAns) (w : List WriteAns),
    s.session = .closed →
    s.ctrls = .success a1 :: .success a2 :: .success a3 :: .success v :: .success a5 :: .success a6 :: c →
    s.writes = .full :: .full :: w →
    exec (.openReq slow) s = .next { s.linked
      [.ctrl .acquire .success, .ctrl .resetDevice .success, .ctrl .purge .success, .ctrl .getLatency (.latency v),
       .ctrl (.setLatency Config.latFast) .success, .ctrl (.setBitmode 0xFF .mpsse) .success, wrote [0x8B],
       wrote (if slow then [0x86, 0x77, 0x00] else [0x86, 0x00, 0x00])] w s.reads c s.drawn with
      session := .opened, handle := true, latSaved := some v, latCaptured := true
      slow := some slow, clkdiv := some (if slow then 119 else 0)
      gpioVal := none, gpioDir := some 0xFF, gpioInLo := none, gpioInHi := none, bitsIn := none, status := none
      jedecMfr := none, jedecDev := none, jedecExtlen := none, jedecExt := none
      flashPwr := .unknown, err := none, answer := .done .unit }

/-- R190: the registers after any successful `OPEN`. -/
def Obligations.OpenLeaves : Prop :=
  ∀ slow s t r, exec (.openReq slow) s = .next t → t.answer = .done r →
    t.session = .opened ∧ t.handle = true ∧ t.latCaptured = true ∧
    (∃ v evs, t.latSaved = some v ∧ t.txlog = s.txlog ++ evs ∧ .ctrl .getLatency (.latency v) ∈ evs) ∧
    t.slow = some slow ∧ t.clkdiv = some (if slow then 119 else 0) ∧ t.gpioDir = some 0xFF ∧ t.gpioVal = none ∧
    t.gpioInLo = none ∧ t.gpioInHi = none ∧ t.bitsIn = none ∧ t.status = none ∧ t.jedecMfr = none ∧
    t.jedecDev = none ∧ t.jedecExtlen = none ∧ t.jedecExt = none ∧ t.dbcnt = s.dbcnt ∧ t.flashPwr = .unknown ∧
    t.err = none ∧ t.warnlog = s.warnlog

/-- R98: `OPEN` stops at the first transport call that fails, with the registers the earlier steps wrote; its control
calls first, then its two writes. -/
def Obligations.OpenStopsAtFirstFailure : Prop :=
  (∀ (s : State) (slow : Bool) (vs : List Byte) (c : List CtrlAns) (hk : vs.length < 6), s.session = .closed →
    s.ctrls = vs.map .success ++ .failure :: c →
    ∃ t, exec (.openReq slow) s = .next t ∧ t.session = .failed ∧ t.err = some ⟨.hardwareError, .ctrlFail, .engine⟩ ∧
      t.txlog = s.txlog ++ ctrlEvents openCalls (vs.map .success) ++ [.ctrl (openCalls[vs.length]'hk) .failure] ∧
      t.handle = (if vs.length = 0 then s.handle else true) ∧
      t.latCaptured = (if vs.length < 4 then s.latCaptured else true) ∧
      t.latSaved = (if vs.length < 4 then s.latSaved else vs[3]?) ∧
      t.gpioVal = s.gpioVal ∧ t.gpioDir = s.gpioDir ∧ t.slow = s.slow ∧ t.clkdiv = s.clkdiv) ∧
  (∀ (s : State) (slow : Bool) (vs : List Byte) (c : List CtrlAns) (n : Int) (p : Nat) (w : List WriteAns),
    s.session = .closed → vs.length = 6 → s.ctrls = vs.map .success ++ c → s.writes = .count n p :: w → n ≠ 1 →
    ∃ t, exec (.openReq slow) s = .next t ∧ t.session = .failed ∧
      t.err = some ⟨.hardwareError, .shortWrite, .engine⟩ ∧
      t.txlog = s.txlog ++ ctrlEvents openCalls (vs.map .success) ++ [.write [0x8B] n (min p 1)] ∧
      t.handle = true ∧ t.latCaptured = true ∧ t.latSaved = vs[3]? ∧ t.gpioVal = none ∧ t.gpioDir = some 0xFF ∧
      t.slow = s.slow ∧ t.clkdiv = s.clkdiv) ∧
  (∀ (s : State) (slow : Bool) (vs : List Byte) (c : List CtrlAns) (n : Int) (p : Nat) (w : List WriteAns),
    s.session = .closed → vs.length = 6 → s.ctrls = vs.map .success ++ c → s.writes = .full :: .count n p :: w →
    n ≠ 3 →
    ∃ t, exec (.openReq slow) s = .next t ∧ t.session = .failed ∧
      t.err = some ⟨.hardwareError, .shortWrite, .engine⟩ ∧
      t.txlog = s.txlog ++ ctrlEvents openCalls (vs.map .success) ++
        [wrote [0x8B], .write (divFrame (divisorOf slow)) n (min p 3)] ∧
      t.gpioVal = none ∧ t.gpioDir = some 0xFF ∧ t.slow = s.slow ∧ t.clkdiv = s.clkdiv)

/-- R109: `CLOSE` completes with three control calls and no link frame, from a safe state. -/
def Obligations.CloseCompletes : Prop :=
  ∀ (s : State) (v a1 a2 a3 : Byte) (c : List CtrlAns), s.session = .opened → s.gpioVal = some 0x90 →
    s.flashPwr = .down → s.latSaved = some v → s.ctrls = .success a1 :: .success a2 :: .success a3 :: c →
    exec .closeReq s = .next { s.controlled
      [.ctrl (.setLatency v) .success, .ctrl (.setBitmode 0x00 .reset) .success, .ctrl .release .success] c with
      handle := false, latCaptured := false, session := .closed, answer := .done .unit }

/-- R110, R109: `CLOSE` refuses an unsafe state with F_UNSAFE_CLOSE and no other; a failed control call raises and
leaves the handle held. -/
def Obligations.CloseRefusesOrRaises : Prop :=
  (∀ s : State, s.session = .opened → (s.gpioVal ≠ some 0x90 ∨ s.flashPwr ≠ .down) →
    exec .closeReq s = .next (s.reply (.faulted .unsafeClose))) ∧
  (∀ s t : State, s.gpioVal = some 0x90 → s.flashPwr = .down → exec .closeReq s = .next t →
    t.answer ≠ .faulted .unsafeClose) ∧
  (∀ (s : State) (v : Byte) (vs : List Byte) (c : List CtrlAns), s.session = .opened → s.gpioVal = some 0x90 →
    s.flashPwr = .down → s.latSaved = some v → vs.length < 3 → s.ctrls = vs.map .success ++ .failure :: c →
    ∃ t, exec .closeReq s = .next t ∧ t.session = .failed ∧ t.err = some ⟨.hardwareError, .ctrlFail, .engine⟩ ∧
      t.txlog.length = s.txlog.length + vs.length + 1 ∧ t.handle = s.handle ∧ t.latCaptured = s.latCaptured)

/-- R111, R112, R174, R175: `ABORT` drains and logs the pending bytes, restores a captured latency timer, releases the
handle and ignores both results; without the handle it only closes; a drain that never ends is the hang. That it skips
the restore when nothing was saved is the model's choice (log 14). -/
def Obligations.AbortTeardown : Prop :=
  (∀ (s : State) (v : Byte) (ds : Bytes) (a : ReadAns) (r : List ReadAns) (x y : CtrlAns) (c : List CtrlAns),
    s.handle = true → s.latCaptured = true → s.latSaved = some v → s.reads = byteReads ds ++ a :: r →
    (∀ b, a ≠ .byte b) → ds.length ≤ s.opts.fuel → s.ctrls = x :: y :: c →
    exec .abortReq s = .next { s.linked
      (readEvents ds ++ [.read a, .ctrl (.setLatency v) (ctrlResult (.setLatency v) x),
        .ctrl .release (ctrlResult .release y)]) s.writes r c s.drawn with
      warnlog := s.warnlog ++ ds.map .unexpectedRx, handle := false, latCaptured := false, session := .closed
      answer := .done .unit }) ∧
  (∀ (s : State) (ds : Bytes) (a : ReadAns) (r : List ReadAns) (y : CtrlAns) (c : List CtrlAns),
    s.handle = true → (s.latCaptured = false ∨ s.latSaved = none) → s.reads = byteReads ds ++ a :: r →
    (∀ b, a ≠ .byte b) → ds.length ≤ s.opts.fuel → s.ctrls = y :: c →
    exec .abortReq s = .next { s.linked
      (readEvents ds ++ [.read a, .ctrl .release (ctrlResult .release y)]) s.writes r c s.drawn with
      warnlog := s.warnlog ++ ds.map .unexpectedRx, handle := false, latCaptured := false, session := .closed
      answer := .done .unit }) ∧
  (∀ s : State, s.handle = false →
    exec .abortReq s = .next { s with latCaptured := false, session := .closed, answer := .done .unit }) ∧
  (∀ (s : State) (ds : Bytes) (r : List ReadAns), s.handle = true → s.reads = byteReads ds ++ r →
    ds.length = s.opts.fuel + 1 → exec .abortReq s = .fault .hung)

/-- R191: after `CLOSE` or `ABORT` the session is closed and every other register keeps its value (the logs got the
request's own events), and it keeps it until the next `OPEN`. -/
def Obligations.AfterCloseOrAbort : Prop :=
  (∀ i s t r, (i = .closeReq ∨ i = .abortReq) → exec i s = .next t → t.answer = .done r →
    t.session = .closed ∧ t.handle = false ∧ t.latCaptured = false ∧
    ∀ g, g ∉ [Reg.session, .handle, .latCaptured, .warnlog, .txlog] → hostRead g t = hostRead g s) ∧
  (∀ i s t, s.session = .closed → s.handle = false → s.latCaptured = false → (∀ slow, i ≠ .openReq slow) →
    exec i s = .next t → ∀ g, hostRead g t = hostRead g s)

/-! Transfers. -/

/-- R101, R120, R73: a write-only transfer of 1 to 65536 bytes completes with the two writes of its frame and changes
no register; the frame row LF-BO does as `SEND` (the model's choice, log 9). -/
def Obligations.SendCompletes : Prop :=
  ∀ (s : State) (bs : Bytes) (w : List WriteAns), s.session = .opened → 1 ≤ bs.length → bs.length ≤ 65536 →
    s.writes = .full :: .full :: w →
    (∀ data, dataBytes data s.mem = bs →
      exec (.send 0x11 data) s = .next ((s.sent (frameEvents 0x11 bs) w).reply (.done .unit))) ∧
    (∀ data n, dataCount n (dataBytes data s.mem) ≤ (dataBytes data s.mem).length →
      (dataBytes data s.mem).take (dataCount n (dataBytes data s.mem)) = bs →
      exec (.bsend data n) s = .next ((s.sent (frameEvents 0x11 bs) w).reply (.done .unit))) ∧
    exec (.lfBo bs) s = .next ((s.sent (frameEvents 0x11 bs) w).reply (.done .unit))

/-- R102: a transfer of no bytes performs no transport I/O and returns at once; the session and operand checks still
apply first. -/
def Obligations.EmptyTransfers : Prop :=
  ∀ s : State,
    (∀ op data, dataBytes data s.mem = [] → exec (.send op data) s = .next (s.reply
      (if s.session ≠ .opened then .faulted .session else if op ≠ 0x11 then .faulted .linkOp else .done .unit))) ∧
    (∀ op buf, exec (.xfer op buf 0) s = .next (s.reply
      (if s.session ≠ .opened then .faulted .session else if op ≠ 0x31 then .faulted .linkOp else .done .unit))) ∧
    (∀ data, exec (.bsend data (some 0)) s = .next (s.reply
      (if s.session ≠ .opened then .faulted .session else .done .unit))) ∧
    (∀ buf, exec (.bxfer buf (some 0)) s = .next (s.reply
      (if s.session ≠ .opened then .faulted .session else .done .unit)))

/-- R99, R61, R122: a write whose count is not its length, short, negative or over, raises `HW_SHORT_WRITE` at once; the
bridge may have received any prefix. Shown on the header and the payload write of `SEND` and `BSEND`. -/
def Obligations.ShortWriteRaises : Prop :=
  ∀ (s : State) (bs : Bytes) (n : Int) (p : Nat) (w : List WriteAns), s.session = .opened → 1 ≤ bs.length →
    bs.length ≤ 65536 →
    (s.writes = .count n p :: w → n ≠ 3 →
      exec (.send 0x11 (.list bs)) s = .next (raiseError .shortWrite .engine
        (s.sent [.write (byteHeader 0x11 bs.length) n (min p 3)] w)) ∧
      exec (.bsend (.list bs) none) s = .next (raiseError .shortWrite .bus
        (s.sent [.write (byteHeader 0x11 bs.length) n (min p 3)] w))) ∧
    (s.writes = .full :: .count n p :: w → n ≠ bs.length →
      exec (.send 0x11 (.list bs)) s = .next (raiseError .shortWrite .engine
        (s.sent [wrote (byteHeader 0x11 bs.length), .write bs n (min p bs.length)] w)) ∧
      exec (.bsend (.list bs) none) s = .next (raiseError .shortWrite .bus
        (s.sent [wrote (byteHeader 0x11 bs.length), .write bs n (min p bs.length)] w)))

/-- R103, R121, R52, R100: a full-duplex transfer sends the buffer's first n bytes and overwrites them in place with the
n bytes received, in order, each byte after any number of empty polls that stays below the bound (with no bound, within
the turns the model follows, log 4); the frame row LF-BX returns them (log 9). -/
def Obligations.XferCompletes : Prop :=
  (∀ (s : State) (buf : Buf) (n : Nat) (ds : List (Nat × Byte)) (w : List WriteAns) (r : List ReadAns),
    s.session = .opened → 1 ≤ n → n ≤ 65536 → n ≤ buf.len → s.writes = .full :: .full :: w →
    s.reads = delayedReads ds ++ r → ds.length = n → (∀ d ∈ ds, PollsFit s.opts d.1) →
    exec (.xfer 0x31 buf n) s = .next { s.moved
      (frameEvents 0x31 (readBytes s.mem buf.base n) ++ delayedEvents ds) w r with
      mem := writeBytes s.mem buf.base (ds.map Prod.snd), answer := .done .unit } ∧
    (∀ k, bufCount k buf = n → exec (.bxfer buf k) s = .next { s.moved
      (frameEvents 0x31 (readBytes s.mem buf.base n) ++ delayedEvents ds) w r with
      mem := writeBytes s.mem buf.base (ds.map Prod.snd), answer := .done .unit })) ∧
  (∀ (s : State) (bs : Bytes) (ds : List (Nat × Byte)) (w : List WriteAns) (r : List ReadAns), s.session = .opened →
    1 ≤ bs.length → bs.length ≤ 65536 → s.writes = .full :: .full :: w → s.reads = delayedReads ds ++ r →
    ds.length = bs.length → (∀ d ∈ ds, PollsFit s.opts d.1) →
    exec (.lfBx bs) s = .next ((s.moved (frameEvents 0x31 bs ++ delayedEvents ds) w r).reply
      (.done (.bytes (ds.map Prod.snd)))))

/-- R103: if an error arrives after i bytes were received, the buffer holds those i bytes and, from i on, the bytes that
were sent. (Memory is in its canonical form, `Inv`.) -/
def Obligations.XferPartial : Prop :=
  ∀ (s : State) (buf : Buf) (n k : Nat) (rs : Bytes) (w : List WriteAns) (r : List ReadAns),
    Memory.wf s.mem = true → s.session = .opened →
    rs.length < n → n ≤ 65536 → n ≤ buf.len → s.writes = .full :: .full :: w →
    s.reads = byteReads rs ++ .negative k :: r →
    ∃ t, exec (.xfer 0x31 buf n) s = .next t ∧ t.answer = .raised ⟨.hardwareError, .readNeg, .engine⟩ ∧
      t.txlog = s.txlog ++ frameEvents 0x31 (readBytes s.mem buf.base n) ++ readEvents rs ++ [.read (.negative k)] ∧
      readBytes t.mem buf.base n = rs ++ (readBytes s.mem buf.base n).drop rs.length

/-- R100, R175: the receive loop, shown on `RDGPIOL`: a byte after any number of empty polls below the bound (each
followed by its wait) is returned; a negative count there raises `HW_READ_NEG`; the finite bound raises `HW_POLL_BOUND`,
and with it the loop never hangs; with no bound, empty polls for ever are the hang (of which the model follows
`opts.fuel` + 1, log 4). -/
def Obligations.ReceiveLoop : Prop :=
  (∀ (s : State) (w : List WriteAns) (r : List ReadAns), s.session = .opened → s.writes = .full :: w →
    (∀ j b, s.reads = List.replicate j .empty ++ .byte b :: r → PollsFit s.opts j →
      exec .rdGpioL s = .next { s.moved (wrote [0x81] :: emptyPolls j ++ [.read (.byte b)]) w r with
        gpioInLo := some b, answer := .done (.byte b) }) ∧
    (∀ j k, s.reads = List.replicate j .empty ++ .negative k :: r → PollsFit s.opts j →
      exec .rdGpioL s = .next (raiseError .readNeg .engine
        (s.moved (wrote [0x81] :: emptyPolls j ++ [.read (.negative k)]) w r))) ∧
    (∀ p j, s.opts.pollBound = some p → j + 1 = max p 1 → s.reads = List.replicate (j + 1) .empty ++ r →
      exec .rdGpioL s = .next (raiseError .pollBound .engine
        (s.moved (wrote [0x81] :: emptyPolls j ++ [.read .empty]) w r))) ∧
    (s.opts.pollBound = none → s.reads = List.replicate (s.opts.fuel + 1) .empty ++ r →
      exec .rdGpioL s = .fault .hung)) ∧
  (∀ (s : State) (p : Nat), s.opts.pollBound = some p → exec .rdGpioL s ≠ .fault .hung)

/-- R105, R75, R86: a bit transfer of 1 to 8 bits sends `33 k−1 v` and keeps the received byte in `BITS_IN`; none for
k = 0; k > 8 is refused. The frame row LF-BITS does as `XBITS` (log 9). -/
def Obligations.BitTransfer : Prop :=
  (∀ (s : State) (v b : Byte) (w : List WriteAns) (r : List ReadAns), s.session = .opened → s.writes = .full :: w →
    s.reads = .byte b :: r →
    (∀ k, 1 ≤ k → k ≤ 8 → exec (.xbits v k) s = .next { s.moved
      [wrote [0x33, BitVec.ofNat 8 (k - 1), v], .read (.byte b)] w r with
      bitsIn := some b, answer := .done (.byte b) }) ∧
    (∀ K : BitVec 3, exec (.lfBits K v) s = .next { s.moved
      [wrote [0x33, BitVec.ofNat 8 K.toNat, v], .read (.byte b)] w r with
      bitsIn := some b, answer := .done (.byte b) })) ∧
  (∀ (s : State) (v : Byte), s.session = .opened →
    exec (.xbits v 0) s = .next (s.reply (.done (.byte 0x00))) ∧
    ∀ k, 8 < k → exec (.xbits v k) s = .next (s.reply (.faulted .bits)))

/-! The GPIO lines. -/

/-- R106, R76: an admitted `SET_GPIO` writes `80 v 93`, `GPIO_VAL` and `GPIO_DIR`; LF-GSET does the same (log 9). -/
def Obligations.SetGpioCompletes : Prop :=
  ∀ (s : State) (v : Byte) (w : List WriteAns), s.session = .opened →
    (v.getLsbD 4 = true ∨ (v.getLsbD 7 = false ∧ InReset s)) → s.writes = .full :: w →
    exec (.setGpio v 0x93) s = .next { s.sent [wrote [0x80, v, 0x93]] w with
      gpioVal := some v, gpioDir := some 0x93, answer := .done .unit } ∧
    exec (.lfGset v) s = .next { s.sent [wrote [0x80, v, 0x93]] w with
      gpioVal := some v, gpioDir := some 0x93, answer := .done .unit }

/-- R114: a GPIO write is refused with F_CS_ORDER exactly when it asserts chip-select with reset released or not already
held; every path that writes the GPIO is checked, the frame and transaction rows too (the model's choice, logs 9 and
11). -/
def Obligations.CsOrderCheck : Prop :=
  ∀ s : State, s.session = .opened →
    (∀ v : Byte, exec (.setGpio v 0x93) s = .next (s.reply (.faulted .csOrder)) ↔
      (v.getLsbD 4 = false ∧ (v.getLsbD 7 = true ∨ ¬InReset s))) ∧
    (∀ v : Byte, exec (.lfGset v) s = .next (s.reply (.faulted .csOrder)) ↔
      (v.getLsbD 4 = false ∧ (v.getLsbD 7 = true ∨ ¬InReset s))) ∧
    (exec .select s = .next (s.reply (.faulted .csOrder)) ↔ ¬InReset s) ∧
    (∀ t, exec .deselect s = .next t → t.answer ≠ .faulted .csOrder) ∧
    (∀ t, exec .release s = .next t → t.answer ≠ .faulted .csOrder) ∧
    (∀ i ∈ plainFlash, exec i s = .next (s.reply (.faulted .csOrder)) ↔ ¬InReset s)

/-- R106, R99, R122: after a failed set-GPIO write `GPIO_VAL` holds ⊥, and the request raises at its layer. -/
def Obligations.GpioShortWrite : Prop :=
  ∀ (s : State) (n : Int) (p : Nat) (w : List WriteAns), s.session = .opened → s.writes = .count n p :: w → n ≠ 3 →
    (∀ v : Byte, (v.getLsbD 4 = true ∨ (v.getLsbD 7 = false ∧ InReset s)) →
      exec (.setGpio v 0x93) s = .next (raiseError .shortWrite .engine
        { s.sent [.write [0x80, v, 0x93] n (min p 3)] w with gpioVal := none }) ∧
      exec (.lfGset v) s = .next (raiseError .shortWrite .engine
        { s.sent [.write [0x80, v, 0x93] n (min p 3)] w with gpioVal := none })) ∧
    (InReset s → exec .select s = .next (raiseError .shortWrite .bus
      { s.sent [.write [0x80, 0x00, 0x93] n (min p 3)] w with gpioVal := none })) ∧
    exec .deselect s = .next (raiseError .shortWrite .bus
      { s.sent [.write [0x80, 0x10, 0x93] n (min p 3)] w with gpioVal := none }) ∧
    exec .release s = .next (raiseError .shortWrite .bus
      { s.sent [.write [0x80, 0x90, 0x93] n (min p 3)] w with gpioVal := none })

/-- R123: the table of the line states and the requests that move between them; `DESELECT` and `RELEASE` are admitted
from every value, and `SELECT` from every value that holds the board in reset (R116 to R118). -/
def Obligations.LineTable : Prop :=
  ∀ (s : State) (w : List WriteAns), s.session = .opened → s.writes = .full :: w →
    ((s.gpioVal = none ∨ s.gpioVal = some 0x90) → exec .select s = .next (s.reply (.faulted .csOrder))) ∧
    ((s.gpioVal = some 0x10 ∨ s.gpioVal = some 0x00 ∨ InReset s) →
      exec .select s = .next { s.sent [wrote [0x80, 0x00, 0x93]] w with
        gpioVal := some 0x00, gpioDir := some 0x93, answer := .done .unit }) ∧
    exec .deselect s = .next { s.sent [wrote [0x80, 0x10, 0x93]] w with
      gpioVal := some 0x10, gpioDir := some 0x93, answer := .done .unit } ∧
    exec .release s = .next { s.sent [wrote [0x80, 0x90, 0x93]] w with
      gpioVal := some 0x90, gpioDir := some 0x93, answer := .done .unit }

/-- R107, R108, R77: a GPIO read sends its one byte and keeps the response. -/
def Obligations.ReadGpio : Prop :=
  ∀ (s : State) (b : Byte) (w : List WriteAns) (r : List ReadAns), s.session = .opened → s.writes = .full :: w →
    s.reads = .byte b :: r →
    exec .rdGpioL s = .next { s.moved [wrote [0x81], .read (.byte b)] w r with
      gpioInLo := some b, answer := .done (.byte b) } ∧
    exec .lfGrdLow s = .next { s.moved [wrote [0x81], .read (.byte b)] w r with
      gpioInLo := some b, answer := .done (.byte b) } ∧
    exec .rdGpioH s = .next { s.moved [wrote [0x83], .read (.byte b)] w r with
      gpioInHi := some b, answer := .done (.byte b) } ∧
    exec .lfGrdHigh s = .next { s.moved [wrote [0x83], .read (.byte b)] w r with
      gpioInHi := some b, answer := .done (.byte b) }

/-- R78, R79, R83, R24: the clock frames as instructions of an open session (the model's choice, logs 9 and 10): LF-CLK5;
LF-DIV with a divisor the block emits, recorded in `SLOW` and `CLKDIV`; any other divisor is refused by name. -/
def Obligations.ClockFrames : Prop :=
  (∀ (s : State) (w : List WriteAns), s.session = .opened → s.writes = .full :: w →
    exec .lfClk5 s = .next ((s.sent [wrote [0x8B]] w).reply (.done .unit)) ∧
    exec (.lfDiv 0) s = .next { s.sent [wrote [0x86, 0x00, 0x00]] w with
      slow := some false, clkdiv := some 0, answer := .done .unit } ∧
    exec (.lfDiv 119) s = .next { s.sent [wrote [0x86, 0x77, 0x00]] w with
      slow := some true, clkdiv := some 119, answer := .done .unit }) ∧
  (∀ (s : State) (d : BitVec 16), s.session = .opened → d ≠ 0 → d ≠ 119 →
    exec (.lfDiv d) s = .refused (.divisorNotEmitted d))

/-- R173, R172: the order of the operand checks of the engine's and the multiplexer's requests in an open session. -/
def Obligations.TransferFaultOrder : Prop :=
  ∀ s : State, s.session = .opened →
    (∀ op data, op ≠ 0x11 → exec (.send op data) s = .next (s.reply (.faulted .linkOp))) ∧
    (∀ data, 65536 < (dataBytes data s.mem).length → exec (.send 0x11 data) s = .next (s.reply (.faulted .len))) ∧
    (∀ op buf n, op ≠ 0x31 → exec (.xfer op buf n) s = .next (s.reply (.faulted .linkOp))) ∧
    (∀ buf n, 65536 < n → exec (.xfer 0x31 buf n) s = .next (s.reply (.faulted .len)) ∧
      exec (.bxfer buf (some n)) s = .next (s.reply (.faulted .len))) ∧
    (∀ buf n, n ≤ 65536 → buf.len < n → exec (.xfer 0x31 buf n) s = .next (s.reply (.faulted .buf)) ∧
      exec (.bxfer buf (some n)) s = .next (s.reply (.faulted .buf))) ∧
    (∀ bs, 65536 < bs.length → exec (.lfBo bs) s = .next (s.reply (.faulted .len)) ∧
      exec (.lfBx bs) s = .next (s.reply (.faulted .len))) ∧
    (∀ data n, (dataBytes data s.mem).length < n →
      exec (.bsend data (some n)) s = .next (s.reply (.faulted .buf))) ∧
    (∀ data n, n ≤ (dataBytes data s.mem).length → 65536 < n →
      exec (.bsend data (some n)) s = .next (s.reply (.faulted .len))) ∧
    (∀ v d, d ≠ 0x93 → exec (.setGpio v d) s = .next (s.reply (.faulted .gpioDir)))

/-! Flash transactions. -/

/-- R89, R126 to R128, R130 to R132, R140: the write-only transactions complete with their exact link bytes inside the
chip-select bracket, wherever the board is held in reset. The SPI rows of the table do as the requests that emit them
(log 11). -/
def Obligations.FixedTransactions : Prop :=
  ∀ (s : State) (w : List WriteAns), s.session = .opened → InReset s → s.writes = List.replicate 4 .full ++ w →
    (∀ i ∈ [Instr.freset, .spiReset],
      exec i s = .next ((s.bracketed (sendTxn (List.replicate 8 0xFF)) w s.reads).reply (.done .unit))) ∧
    (∀ i ∈ [Instr.fpup, .spiReleasePowerDown], exec i s = .next
      { s.bracketed (sendTxn [0xAB]) w s.reads with flashPwr := .up, answer := .done .unit }) ∧
    (∀ i ∈ [Instr.fpdn, .spiPowerDown], exec i s = .next
      { s.bracketed (sendTxn [0xB9]) w s.reads with flashPwr := .down, answer := .done .unit }) ∧
    (∀ i ∈ [Instr.ce, .spiChipErase],
      exec i s = .next ((s.bracketed (sendTxn [0xC7]) w s.reads).reply (.done .unit))) ∧
    (s.opts.verbose = false →
      exec .wren s = .next ((s.bracketed (sendTxn [0x06]) w s.reads).reply (.done .unit))) ∧
    exec .spiWriteEnable s = .next ((s.bracketed (sendTxn [0x06]) w s.reads).reply (.done .unit)) ∧
    exec .spiWriteStatus s = .next ((s.bracketed (sendTxn [0x01, 0x00]) w s.reads).reply (.done .unit)) ∧
    (∀ a, a < 0x1000000 → exec (.be64k a) s = .next
      ((s.bracketed (sendTxn (0xD8 :: addr3 a)) w s.reads).reply (.done .unit))) ∧
    (∀ a : FlashAddr, exec (.spiBlockErase64K a) s = .next
      ((s.bracketed (sendTxn (0xD8 :: addr3 a.toNat)) w s.reads).reply (.done .unit)))

/-- R59: an address operand at or above 2^24 faults with F_ADDR before any link event. -/
def Obligations.AddressRange : Prop :=
  ∀ (s : State) (a : Nat), s.session = .opened → 0x1000000 ≤ a →
    exec (.be64k a) s = .next (s.reply (.faulted .addr)) ∧
    (∀ data n, exec (.pp a data n) s = .next (s.reply (.faulted .addr))) ∧
    (∀ buf n, exec (.read a buf n) s = .next (s.reply (.faulted .addr)))

/-- R133, R89: a page program completes with its header frame and, for n ≥ 1, its data frame; the SPI row is a page
program of all its data (the model's choice, log 11). -/
def Obligations.PageProgram : Prop :=
  (∀ (s : State) (w : List WriteAns) (a n : Nat) (data : Data), s.session = .opened → InReset s → a < 0x1000000 →
    1 ≤ n → n ≤ (dataBytes data s.mem).length → a % 256 + n ≤ 256 → s.writes = List.replicate 6 .full ++ w →
    exec (.pp a data n) s = .next ((s.bracketed (txnEvents (frameEvents 0x11 (0x02 :: addr3 a) ++
      frameEvents 0x11 ((dataBytes data s.mem).take n))) w s.reads).reply (.done .unit))) ∧
  (∀ (s : State) (w : List WriteAns) (a : Nat) (data : Data), s.session = .opened → InReset s → a < 0x1000000 →
    s.writes = List.replicate 4 .full ++ w →
    exec (.pp a data 0) s =
      .next ((s.bracketed (sendTxn (0x02 :: addr3 a)) w s.reads).reply (.done .unit))) ∧
  (∀ (s : State) (w : List WriteAns) (a : FlashAddr) (bs : Bytes), s.session = .opened → InReset s →
    a.toNat % 256 + bs.length ≤ 256 →
    (bs ≠ [] → s.writes = List.replicate 6 .full ++ w →
      exec (.spiPageProgram a bs) s = .next ((s.bracketed (txnEvents (frameEvents 0x11 (0x02 :: addr3 a.toNat) ++
        frameEvents 0x11 bs)) w s.reads).reply (.done .unit))) ∧
    (bs = [] → s.writes = List.replicate 4 .full ++ w →
      exec (.spiPageProgram a bs) s =
        .next ((s.bracketed (sendTxn (0x02 :: addr3 a.toNat)) w s.reads).reply (.done .unit))))

/-- R56: a page program that leaves its page faults with F_PAGE_CROSS before any link event (once its session, address
and count are good, R173). -/
def Obligations.PageBoundary : Prop :=
  ∀ (s : State) (a n : Nat) (data : Data), s.session = .opened → a < 0x1000000 → n ≤ (dataBytes data s.mem).length →
    (256 < a % 256 + n → exec (.pp a data n) s = .next (s.reply (.faulted .pageCross))) ∧
    (a % 256 + n ≤ 256 → ∀ t, exec (.pp a data n) s = .next t → t.answer ≠ .faulted .pageCross)

/-- R134, R89: a read completes with its header frame and, for n ≥ 1, the full-duplex frame of zeros; the buffer's first
n bytes are then the n bytes received (memory being in its canonical form, `Inv`). The SPI row returns them instead
(log 11). -/
def Obligations.ReadData : Prop :=
  (∀ (s : State) (w : List WriteAns) (r : List ReadAns) (a n : Nat) (buf : Buf) (rs : Bytes),
    Memory.wf s.mem = true → s.session = .opened → InReset s → a < 0x1000000 → n ≤ 65536 → n ≤ buf.len →
    s.reads = byteReads rs ++ r → rs.length = n →
    s.writes = List.replicate (if n = 0 then 4 else 6) .full ++ w →
    ∃ m, exec (.read a buf n) s = .next { s.bracketed (txnEvents (frameEvents 0x11 (0x03 :: addr3 a) ++
        frameEvents 0x31 (zeros n) ++ readEvents rs)) w r with mem := m, answer := .done .unit } ∧
      readBytes m buf.base n = rs ∧
      ∀ x, ¬(buf.base ≤ x ∧ x < buf.base + n) → memRead m x = memRead s.mem x) ∧
  (∀ (s : State) (w : List WriteAns) (r : List ReadAns) (a : FlashAddr) (n : Nat) (rs : Bytes), s.session = .opened →
    InReset s → n ≤ 65536 → s.reads = byteReads rs ++ r → rs.length = n →
    s.writes = List.replicate (if n = 0 then 4 else 6) .full ++ w →
    exec (.spiReadData a n) s = .next ((s.bracketed (txnEvents (frameEvents 0x11 (0x03 :: addr3 a.toNat) ++
      frameEvents 0x31 (zeros n) ++ readEvents rs)) w r).reply (.done (.bytes rs))))

/-- R134: after an error in the data transfer the buffer holds the bytes received and then zeros, and chip-select stays
asserted (R124). (Memory is in its canonical form, `Inv`.) -/
def Obligations.ReadDataPartial : Prop :=
  ∀ (s : State) (w : List WriteAns) (r : List ReadAns) (a n k : Nat) (buf : Buf) (rs : Bytes),
    Memory.wf s.mem = true → s.session = .opened → InReset s → a < 0x1000000 → n ≤ 65536 → n ≤ buf.len →
    rs.length < n →
    s.reads = byteReads rs ++ .negative k :: r → s.writes = List.replicate 5 .full ++ w →
    ∃ t, exec (.read a buf n) s = .next t ∧ t.answer = .raised ⟨.hardwareError, .readNeg, .flash⟩ ∧
      t.gpioVal = some 0x00 ∧ readBytes t.mem buf.base n = rs ++ zeros (n - rs.length)

/-- R173: the order of the checks of the addressed flash requests after F_SESSION and F_ADDR; every one ends with
F_CS_ORDER. The SPI rows are checked as the requests that emit them (the model's choice, log 11). -/
def Obligations.FlashFaultOrder : Prop :=
  ∀ (s : State) (a : Nat), s.session = .opened → a < 0x1000000 →
    (¬InReset s → exec (.be64k a) s = .next (s.reply (.faulted .csOrder))) ∧
    (∀ data n, (dataBytes data s.mem).length < n → exec (.pp a data n) s = .next (s.reply (.faulted .buf))) ∧
    (∀ data n, n ≤ (dataBytes data s.mem).length → 256 < a % 256 + n →
      exec (.pp a data n) s = .next (s.reply (.faulted .pageCross))) ∧
    (∀ data n, n ≤ (dataBytes data s.mem).length → a % 256 + n ≤ 256 → ¬InReset s →
      exec (.pp a data n) s = .next (s.reply (.faulted .csOrder))) ∧
    (∀ buf n, 65536 < n → exec (.read a buf n) s = .next (s.reply (.faulted .len))) ∧
    (∀ buf n, n ≤ 65536 → buf.len < n → exec (.read a buf n) s = .next (s.reply (.faulted .buf))) ∧
    (∀ buf n, n ≤ 65536 → n ≤ buf.len → ¬InReset s →
      exec (.read a buf n) s = .next (s.reply (.faulted .csOrder))) ∧
    (∀ b : FlashAddr, ¬InReset s → exec (.spiBlockErase64K b) s = .next (s.reply (.faulted .csOrder))) ∧
    (∀ (b : FlashAddr) bs, 256 < b.toNat % 256 + bs.length →
      exec (.spiPageProgram b bs) s = .next (s.reply (.faulted .pageCross))) ∧
    (∀ (b : FlashAddr) bs, b.toNat % 256 + bs.length ≤ 256 → ¬InReset s →
      exec (.spiPageProgram b bs) s = .next (s.reply (.faulted .csOrder))) ∧
    (∀ (b : FlashAddr) n, 65536 < n → exec (.spiReadData b n) s = .next (s.reply (.faulted .len))) ∧
    (∀ (b : FlashAddr) n, n ≤ 65536 → ¬InReset s →
      exec (.spiReadData b n) s = .next (s.reply (.faulted .csOrder)))

/-! Status and identification. -/

/-- R129, R136, R32: `RDSR` keeps the second byte received in `STATUS`, reports it under `VERBOSE`, and ends with its
wait; the SPI row is the transaction alone (log 11). The reported fields are the bits of R32; the names of their values
and all polarities but BUSY's are the model's (log 25). -/
def Obligations.ReadStatus : Prop :=
  (∀ sr : Byte, statusReport sr = {
    lock := if sr.getLsbD 7 then .locked else .unlocked
    mode := if sr.getLsbD 6 then .sequential else .bytePage
    epe := if sr.getLsbD 5 then .error else .success
    wpp := if sr.getLsbD 4 then .deasserted else .asserted
    range := match sr.getLsbD 3, sr.getLsbD 2 with
      | false, false => .none
      | false, true => .some
      | true, false => .reserved
      | true, true => .all
    wel := sr.getLsbD 1
    busy := sr.getLsbD 0 }) ∧
  ∀ (s : State) (b0 sr : Byte) (w : List WriteAns) (r : List ReadAns), s.session = .opened → InReset s →
    s.writes = List.replicate 4 .full ++ w → s.reads = .byte b0 :: .byte sr :: r →
    exec .rdsr s = .next { s.bracketed (rdsrEvents b0 sr) w r with
      status := some sr, reports := s.reports ++ (if s.opts.verbose then [statusReport sr] else [])
      answer := .done (.byte sr) } ∧
    exec .spiReadStatus1 s = .next { s.bracketed (statusTxn b0 sr) w r with
      status := some sr, answer := .done (.byte sr) }

/-- R130: with `VERBOSE`, `WREN` reads the status before and after its transaction. -/
def Obligations.WriteEnableVerbose : Prop :=
  ∀ (s : State) (p q : Byte × Byte) (w : List WriteAns) (r : List ReadAns), s.session = .opened → InReset s →
    s.opts.verbose = true → s.writes = List.replicate 12 .full ++ w → s.reads = pollReads [p, q] ++ r →
    exec .wren s = .next { s.bracketed (rdsrEvents p.1 p.2 ++ sendTxn [0x06] ++ rdsrEvents q.1 q.2) w r with
      status := some q.2, reports := s.reports ++ [statusReport p.2, statusReport q.2], answer := .done .unit }

/-- R138, R137, R32: `WAITBUSY` returns after poll p exactly when polls p − 1 and p both read not-busy, bit 0 of the
status being 0, and no earlier pair did. For every list of polls whose first such pair is its last two, it makes exactly
those polls and returns, if they are within the busy bound (with no bound, within the turns the model follows, log 4);
while the list has no such pair it does not return. -/
def Obligations.WaitBusyReturns : Prop :=
  (∀ ps : List (Byte × Byte), hasQuietPair ps = true ↔
    ∃ a p q c, ps = a ++ p :: q :: c ∧ p.2.getLsbD 0 = false ∧ q.2.getLsbD 0 = false) ∧
  ∀ (s : State) (ps : List (Byte × Byte)) (sr : Byte) (w : List WriteAns) (r : List ReadAns), s.session = .opened →
    InReset s → s.writes = List.replicate (4 * ps.length) .full ++ w → s.reads = pollReads ps ++ r →
    ps.getLast?.map Prod.snd = some sr →
    (hasQuietPair ps = true → hasQuietPair ps.dropLast = false → BusyFit s.opts ps.length →
      exec .waitBusy s = .next ((s.polled ps sr 2 w r).reply (.done .unit))) ∧
    (hasQuietPair ps = false → ∀ t d, exec .waitBusy s = .next t → t.answer = .done d →
      (s.txlog ++ pollEvents ps).length < t.txlog.length)

/-- R137: with a finite `BUSY_BOUND`, that many polls with no two not-busy in a row raise `HW_BUSY_BOUND` at layer
FLASH; `DBCNT` is then 1 if bit 0 of the last status is 0, else 0. -/
def Obligations.WaitBusyBound : Prop :=
  ∀ (s : State) (ps : List (Byte × Byte)) (b : Nat) (sr : Byte) (w : List WriteAns) (r : List ReadAns),
    s.session = .opened → InReset s → s.writes = List.replicate (4 * ps.length) .full ++ w →
    s.reads = pollReads ps ++ r → s.opts.busyBound = some b → ps.length = max b 1 →
    ps.getLast?.map Prod.snd = some sr → hasQuietPair ps = false →
    exec .waitBusy s = .next (raiseError .busyBound .flash
      (s.polled ps sr (if sr.getLsbD 0 then 0 else 1) w r))

/-- R139, R175: with no bound, a status stream that never shows two not-busy values in a row is the hang, which is no
done, raised or faulted request (of the stream the model follows `opts.fuel` + 1 polls, log 4). -/
def Obligations.WaitBusyHangs : Prop :=
  ∀ (s : State) (ps : List (Byte × Byte)) (w : List WriteAns) (r : List ReadAns), s.session = .opened → InReset s →
    s.writes = List.replicate (4 * ps.length) .full ++ w → s.reads = pollReads ps ++ r → s.opts.busyBound = none →
    ps.length = s.opts.fuel + 1 → hasQuietPair ps = false → exec .waitBusy s = .fault .hung

/-- R140, R174: `DISPROT` writes status 0x00, waits, re-reads, and warns if the status is not 0x00. The polls of its wait
are within the busy bound (with no bound, within the turns the model follows, log 4). -/
def Obligations.DisableProtection : Prop :=
  ∀ (s : State) (ps : List (Byte × Byte)) (q : Byte × Byte) (w : List WriteAns) (r : List ReadAns),
    s.session = .opened → InReset s → s.writes = List.replicate (4 * (ps.length + 2)) .full ++ w →
    s.reads = pollReads (ps ++ [q]) ++ r → BusyFit s.opts ps.length → hasQuietPair ps = true →
    hasQuietPair ps.dropLast = false →
    exec .disProt s = .next
      { s.bracketed (sendTxn [0x01, 0x00] ++ pollEvents ps ++ rdsrEvents q.1 q.2) w r with
        status := some q.2, dbcnt := 2, reports := s.reports ++ pollReports s.opts.verbose (ps ++ [q])
        warnlog := s.warnlog ++ (if q.2 = 0x00 then [] else [.protNotCleared q.2]), answer := .done .unit }

/-- R142, R143: an extended length of 0x00 or 0xFF makes no extended read; 0xFF is kept and appends one warning. The SPI
row is the whole transaction too (the model's choice, log 11). -/
def Obligations.JedecNoExtension : Prop :=
  ∀ (s : State) (b0 m d0 d1 l : Byte) (w : List WriteAns) (r : List ReadAns), s.session = .opened → InReset s →
    s.writes = List.replicate 4 .full ++ w → s.reads = byteReads [b0, m, d0, d1, l] ++ r → (l = 0x00 ∨ l = 0xFF) →
    ∀ i ∈ [Instr.rdId, .spiJedecId], exec i s = .next
      { s.bracketed (txnEvents (frameEvents 0x31 [0x9F, 0x00, 0x00, 0x00, 0x00] ++
          readEvents [b0, m, d0, d1, l])) w r with
        jedecMfr := some m, jedecDev := some (d0, d1), jedecExtlen := some l, jedecExt := some []
        warnlog := s.warnlog ++ (if l = 0xFF then [.jedecFF] else []), answer := .done (.jedec m d0 d1 l []) }

/-- R142, R144: an extended length L of 1 to 254 reads exactly L further bytes in the same chip-select window, for the
SPI row too (the model's choice, log 11). -/
def Obligations.JedecExtension : Prop :=
  ∀ (s : State) (b0 m d0 d1 l : Byte) (ext : Bytes) (w : List WriteAns) (r : List ReadAns), s.session = .opened →
    InReset s → s.writes = List.replicate 6 .full ++ w → s.reads = byteReads [b0, m, d0, d1, l] ++ byteReads ext ++ r →
    l ≠ 0x00 → l ≠ 0xFF → ext.length = l.toNat →
    ∀ i ∈ [Instr.rdId, .spiJedecId], exec i s = .next
      { s.bracketed (txnEvents (frameEvents 0x31 [0x9F, 0x00, 0x00, 0x00, 0x00] ++
          readEvents [b0, m, d0, d1, l] ++ frameEvents 0x31 (zeros l.toNat) ++ readEvents ext)) w r with
        jedecMfr := some m, jedecDev := some (d0, d1), jedecExtlen := some l, jedecExt := some ext
        answer := .done (.jedec m d0 d1 l ext) }

/-! The reference host. -/

/-- R147, R148: the erase plan rounds the range outward to whole 64 KiB blocks, by less than a block at each end, and every
block address can be erased when the range lies in the address space. -/
def Obligations.ErasePlan : Prop :=
  ∀ o n : Nat,
    eraseBegin o ≤ o ∧ o < eraseBegin o + 65536 ∧ o + n ≤ eraseEnd o n ∧ eraseEnd o n < o + n + 65536 ∧
    eraseBegin o % 65536 = 0 ∧ eraseEnd o n % 65536 = 0 ∧
    (∀ a, a ∈ erasePlan o n ↔ (a % 65536 = 0 ∧ eraseBegin o ≤ a ∧ a < eraseEnd o n)) ∧
    (o + n ≤ 0x1000000 → eraseEnd o n ≤ 0x1000000) ∧
    (∀ a ∈ erasePlan o n, 0x1000000 ≤ a → ∀ s : State, s.session = .opened →
      exec (.be64k a) s = .next (s.reply (.faulted .addr)))

/-- R149, R155: the write chunks are the source in order, at rising addresses without a gap, each inside one page and
each ending its page but the last. -/
def Obligations.WriteChunks : Prop :=
  ∀ (o : Nat) (src : Bytes),
    (writeChunks src.length o src).flatMap Prod.snd = src ∧
    (∀ c ∈ writeChunks src.length o src, 1 ≤ c.2.length ∧ c.1 % 256 + c.2.length ≤ 256) ∧
    (∀ k c, (writeChunks src.length o src)[k]? = some c →
      c.1 = o + (((writeChunks src.length o src).take k).flatMap Prod.snd).length ∧
      (k + 1 < (writeChunks src.length o src).length → (c.1 + c.2.length) % 256 = 0))

/-- R150, R156, R158: the verify and read chunks start at offset + 256·j and have 256 bytes but for the last. -/
def Obligations.VerifyChunks : Prop :=
  ∀ (o : Nat) (src : Bytes),
    (verifyChunks src.length o src).flatMap Prod.snd = src ∧
    (∀ j c, (verifyChunks src.length o src)[j]? = some c → c.1 = o + 256 * j ∧
      c.2.length = min 256 (src.length - 256 * j) ∧ 1 ≤ c.2.length) ∧
    (∀ n j c, (readChunks n o n)[j]? = some c → c.1 = o + 256 * j ∧ c.2 = min 256 (n - 256 * j) ∧ 1 ≤ c.2) ∧
    (∀ n, ((readChunks n o n).map Prod.snd).sum = n)
end

