-- ==== Sys2Proof/Laws/State.lean ====
section
/-! SUPPORT. One lemma per field per named update of State, true by rfl, so that no proof unfolds a record update. -/

namespace Sys2Proof.Machine

/-! `linked` -/

@[simp] theorem linked_session (s : State) (evs : List LinkEvent) (w : List WriteAns) (r : List ReadAns) (c : List CtrlAns) (d : Nat) : (s.linked evs w r c d).session = s.session := rfl
@[simp] theorem linked_handle (s : State) (evs : List LinkEvent) (w : List WriteAns) (r : List ReadAns) (c : List CtrlAns) (d : Nat) : (s.linked evs w r c d).handle = s.handle := rfl
@[simp] theorem linked_latSaved (s : State) (evs : List LinkEvent) (w : List WriteAns) (r : List ReadAns) (c : List CtrlAns) (d : Nat) : (s.linked evs w r c d).latSaved = s.latSaved := rfl
@[simp] theorem linked_latCaptured (s : State) (evs : List LinkEvent) (w : List WriteAns) (r : List ReadAns) (c : List CtrlAns) (d : Nat) : (s.linked evs w r c d).latCaptured = s.latCaptured := rfl
@[simp] theorem linked_slow (s : State) (evs : List LinkEvent) (w : List WriteAns) (r : List ReadAns) (c : List CtrlAns) (d : Nat) : (s.linked evs w r c d).slow = s.slow := rfl
@[simp] theorem linked_clkdiv (s : State) (evs : List LinkEvent) (w : List WriteAns) (r : List ReadAns) (c : List CtrlAns) (d : Nat) : (s.linked evs w r c d).clkdiv = s.clkdiv := rfl
@[simp] theorem linked_gpioVal (s : State) (evs : List LinkEvent) (w : List WriteAns) (r : List ReadAns) (c : List CtrlAns) (d : Nat) : (s.linked evs w r c d).gpioVal = s.gpioVal := rfl
@[simp] theorem linked_gpioDir (s : State) (evs : List LinkEvent) (w : List WriteAns) (r : List ReadAns) (c : List CtrlAns) (d : Nat) : (s.linked evs w r c d).gpioDir = s.gpioDir := rfl
@[simp] theorem linked_gpioInLo (s : State) (evs : List LinkEvent) (w : List WriteAns) (r : List ReadAns) (c : List CtrlAns) (d : Nat) : (s.linked evs w r c d).gpioInLo = s.gpioInLo := rfl
@[simp] theorem linked_gpioInHi (s : State) (evs : List LinkEvent) (w : List WriteAns) (r : List ReadAns) (c : List CtrlAns) (d : Nat) : (s.linked evs w r c d).gpioInHi = s.gpioInHi := rfl
@[simp] theorem linked_bitsIn (s : State) (evs : List LinkEvent) (w : List WriteAns) (r : List ReadAns) (c : List CtrlAns) (d : Nat) : (s.linked evs w r c d).bitsIn = s.bitsIn := rfl
@[simp] theorem linked_status (s : State) (evs : List LinkEvent) (w : List WriteAns) (r : List ReadAns) (c : List CtrlAns) (d : Nat) : (s.linked evs w r c d).status = s.status := rfl
@[simp] theorem linked_dbcnt (s : State) (evs : List LinkEvent) (w : List WriteAns) (r : List ReadAns) (c : List CtrlAns) (d : Nat) : (s.linked evs w r c d).dbcnt = s.dbcnt := rfl
@[simp] theorem linked_jedecMfr (s : State) (evs : List LinkEvent) (w : List WriteAns) (r : List ReadAns) (c : List CtrlAns) (d : Nat) : (s.linked evs w r c d).jedecMfr = s.jedecMfr := rfl
@[simp] theorem linked_jedecDev (s : State) (evs : List LinkEvent) (w : List WriteAns) (r : List ReadAns) (c : List CtrlAns) (d : Nat) : (s.linked evs w r c d).jedecDev = s.jedecDev := rfl
@[simp] theorem linked_jedecExtlen (s : State) (evs : List LinkEvent) (w : List WriteAns) (r : List ReadAns) (c : List CtrlAns) (d : Nat) : (s.linked evs w r c d).jedecExtlen = s.jedecExtlen := rfl
@[simp] theorem linked_jedecExt (s : State) (evs : List LinkEvent) (w : List WriteAns) (r : List ReadAns) (c : List CtrlAns) (d : Nat) : (s.linked evs w r c d).jedecExt = s.jedecExt := rfl
@[simp] theorem linked_flashPwr (s : State) (evs : List LinkEvent) (w : List WriteAns) (r : List ReadAns) (c : List CtrlAns) (d : Nat) : (s.linked evs w r c d).flashPwr = s.flashPwr := rfl
@[simp] theorem linked_err (s : State) (evs : List LinkEvent) (w : List WriteAns) (r : List ReadAns) (c : List CtrlAns) (d : Nat) : (s.linked evs w r c d).err = s.err := rfl
@[simp] theorem linked_warnlog (s : State) (evs : List LinkEvent) (w : List WriteAns) (r : List ReadAns) (c : List CtrlAns) (d : Nat) : (s.linked evs w r c d).warnlog = s.warnlog := rfl
@[simp] theorem linked_txlog (s : State) (evs : List LinkEvent) (w : List WriteAns) (r : List ReadAns) (c : List CtrlAns) (d : Nat) : (s.linked evs w r c d).txlog = s.txlog ++ evs := rfl
@[simp] theorem linked_mem (s : State) (evs : List LinkEvent) (w : List WriteAns) (r : List ReadAns) (c : List CtrlAns) (d : Nat) : (s.linked evs w r c d).mem = s.mem := rfl
@[simp] theorem linked_queue (s : State) (evs : List LinkEvent) (w : List WriteAns) (r : List ReadAns) (c : List CtrlAns) (d : Nat) : (s.linked evs w r c d).queue = s.queue := rfl
@[simp] theorem linked_writes (s : State) (evs : List LinkEvent) (w : List WriteAns) (r : List ReadAns) (c : List CtrlAns) (d : Nat) : (s.linked evs w r c d).writes = w := rfl
@[simp] theorem linked_reads (s : State) (evs : List LinkEvent) (w : List WriteAns) (r : List ReadAns) (c : List CtrlAns) (d : Nat) : (s.linked evs w r c d).reads = r := rfl
@[simp] theorem linked_ctrls (s : State) (evs : List LinkEvent) (w : List WriteAns) (r : List ReadAns) (c : List CtrlAns) (d : Nat) : (s.linked evs w r c d).ctrls = c := rfl
@[simp] theorem linked_drawn (s : State) (evs : List LinkEvent) (w : List WriteAns) (r : List ReadAns) (c : List CtrlAns) (d : Nat) : (s.linked evs w r c d).drawn = d := rfl
@[simp] theorem linked_answer (s : State) (evs : List LinkEvent) (w : List WriteAns) (r : List ReadAns) (c : List CtrlAns) (d : Nat) : (s.linked evs w r c d).answer = s.answer := rfl
@[simp] theorem linked_reports (s : State) (evs : List LinkEvent) (w : List WriteAns) (r : List ReadAns) (c : List CtrlAns) (d : Nat) : (s.linked evs w r c d).reports = s.reports := rfl
@[simp] theorem linked_opts (s : State) (evs : List LinkEvent) (w : List WriteAns) (r : List ReadAns) (c : List CtrlAns) (d : Nat) : (s.linked evs w r c d).opts = s.opts := rfl

/-! `log` -/

@[simp] theorem log_session (s : State) (e : LinkEvent) : (s.log e).session = s.session := rfl
@[simp] theorem log_handle (s : State) (e : LinkEvent) : (s.log e).handle = s.handle := rfl
@[simp] theorem log_latSaved (s : State) (e : LinkEvent) : (s.log e).latSaved = s.latSaved := rfl
@[simp] theorem log_latCaptured (s : State) (e : LinkEvent) : (s.log e).latCaptured = s.latCaptured := rfl
@[simp] theorem log_slow (s : State) (e : LinkEvent) : (s.log e).slow = s.slow := rfl
@[simp] theorem log_clkdiv (s : State) (e : LinkEvent) : (s.log e).clkdiv = s.clkdiv := rfl
@[simp] theorem log_gpioVal (s : State) (e : LinkEvent) : (s.log e).gpioVal = s.gpioVal := rfl
@[simp] theorem log_gpioDir (s : State) (e : LinkEvent) : (s.log e).gpioDir = s.gpioDir := rfl
@[simp] theorem log_gpioInLo (s : State) (e : LinkEvent) : (s.log e).gpioInLo = s.gpioInLo := rfl
@[simp] theorem log_gpioInHi (s : State) (e : LinkEvent) : (s.log e).gpioInHi = s.gpioInHi := rfl
@[simp] theorem log_bitsIn (s : State) (e : LinkEvent) : (s.log e).bitsIn = s.bitsIn := rfl
@[simp] theorem log_status (s : State) (e : LinkEvent) : (s.log e).status = s.status := rfl
@[simp] theorem log_dbcnt (s : State) (e : LinkEvent) : (s.log e).dbcnt = s.dbcnt := rfl
@[simp] theorem log_jedecMfr (s : State) (e : LinkEvent) : (s.log e).jedecMfr = s.jedecMfr := rfl
@[simp] theorem log_jedecDev (s : State) (e : LinkEvent) : (s.log e).jedecDev = s.jedecDev := rfl
@[simp] theorem log_jedecExtlen (s : State) (e : LinkEvent) : (s.log e).jedecExtlen = s.jedecExtlen := rfl
@[simp] theorem log_jedecExt (s : State) (e : LinkEvent) : (s.log e).jedecExt = s.jedecExt := rfl
@[simp] theorem log_flashPwr (s : State) (e : LinkEvent) : (s.log e).flashPwr = s.flashPwr := rfl
@[simp] theorem log_err (s : State) (e : LinkEvent) : (s.log e).err = s.err := rfl
@[simp] theorem log_warnlog (s : State) (e : LinkEvent) : (s.log e).warnlog = s.warnlog := rfl
@[simp] theorem log_txlog (s : State) (e : LinkEvent) : (s.log e).txlog = s.txlog ++ [e] := rfl
@[simp] theorem log_mem (s : State) (e : LinkEvent) : (s.log e).mem = s.mem := rfl
@[simp] theorem log_queue (s : State) (e : LinkEvent) : (s.log e).queue = s.queue := rfl
@[simp] theorem log_writes (s : State) (e : LinkEvent) : (s.log e).writes = s.writes := rfl
@[simp] theorem log_reads (s : State) (e : LinkEvent) : (s.log e).reads = s.reads := rfl
@[simp] theorem log_ctrls (s : State) (e : LinkEvent) : (s.log e).ctrls = s.ctrls := rfl
@[simp] theorem log_drawn (s : State) (e : LinkEvent) : (s.log e).drawn = s.drawn := rfl
@[simp] theorem log_answer (s : State) (e : LinkEvent) : (s.log e).answer = s.answer := rfl
@[simp] theorem log_reports (s : State) (e : LinkEvent) : (s.log e).reports = s.reports := rfl
@[simp] theorem log_opts (s : State) (e : LinkEvent) : (s.log e).opts = s.opts := rfl

/-! `warn` -/

@[simp] theorem warn_session (s : State) (x : Warning) : (s.warn x).session = s.session := rfl
@[simp] theorem warn_handle (s : State) (x : Warning) : (s.warn x).handle = s.handle := rfl
@[simp] theorem warn_latSaved (s : State) (x : Warning) : (s.warn x).latSaved = s.latSaved := rfl
@[simp] theorem warn_latCaptured (s : State) (x : Warning) : (s.warn x).latCaptured = s.latCaptured := rfl
@[simp] theorem warn_slow (s : State) (x : Warning) : (s.warn x).slow = s.slow := rfl
@[simp] theorem warn_clkdiv (s : State) (x : Warning) : (s.warn x).clkdiv = s.clkdiv := rfl
@[simp] theorem warn_gpioVal (s : State) (x : Warning) : (s.warn x).gpioVal = s.gpioVal := rfl
@[simp] theorem warn_gpioDir (s : State) (x : Warning) : (s.warn x).gpioDir = s.gpioDir := rfl
@[simp] theorem warn_gpioInLo (s : State) (x : Warning) : (s.warn x).gpioInLo = s.gpioInLo := rfl
@[simp] theorem warn_gpioInHi (s : State) (x : Warning) : (s.warn x).gpioInHi = s.gpioInHi := rfl
@[simp] theorem warn_bitsIn (s : State) (x : Warning) : (s.warn x).bitsIn = s.bitsIn := rfl
@[simp] theorem warn_status (s : State) (x : Warning) : (s.warn x).status = s.status := rfl
@[simp] theorem warn_dbcnt (s : State) (x : Warning) : (s.warn x).dbcnt = s.dbcnt := rfl
@[simp] theorem warn_jedecMfr (s : State) (x : Warning) : (s.warn x).jedecMfr = s.jedecMfr := rfl
@[simp] theorem warn_jedecDev (s : State) (x : Warning) : (s.warn x).jedecDev = s.jedecDev := rfl
@[simp] theorem warn_jedecExtlen (s : State) (x : Warning) : (s.warn x).jedecExtlen = s.jedecExtlen := rfl
@[simp] theorem warn_jedecExt (s : State) (x : Warning) : (s.warn x).jedecExt = s.jedecExt := rfl
@[simp] theorem warn_flashPwr (s : State) (x : Warning) : (s.warn x).flashPwr = s.flashPwr := rfl
@[simp] theorem warn_err (s : State) (x : Warning) : (s.warn x).err = s.err := rfl
@[simp] theorem warn_warnlog (s : State) (x : Warning) : (s.warn x).warnlog = s.warnlog ++ [x] := rfl
@[simp] theorem warn_txlog (s : State) (x : Warning) : (s.warn x).txlog = s.txlog := rfl
@[simp] theorem warn_mem (s : State) (x : Warning) : (s.warn x).mem = s.mem := rfl
@[simp] theorem warn_queue (s : State) (x : Warning) : (s.warn x).queue = s.queue := rfl
@[simp] theorem warn_writes (s : State) (x : Warning) : (s.warn x).writes = s.writes := rfl
@[simp] theorem warn_reads (s : State) (x : Warning) : (s.warn x).reads = s.reads := rfl
@[simp] theorem warn_ctrls (s : State) (x : Warning) : (s.warn x).ctrls = s.ctrls := rfl
@[simp] theorem warn_drawn (s : State) (x : Warning) : (s.warn x).drawn = s.drawn := rfl
@[simp] theorem warn_answer (s : State) (x : Warning) : (s.warn x).answer = s.answer := rfl
@[simp] theorem warn_reports (s : State) (x : Warning) : (s.warn x).reports = s.reports := rfl
@[simp] theorem warn_opts (s : State) (x : Warning) : (s.warn x).opts = s.opts := rfl

/-! `report` -/

@[simp] theorem report_session (s : State) (x : StatusReport) : (s.report x).session = s.session := rfl
@[simp] theorem report_handle (s : State) (x : StatusReport) : (s.report x).handle = s.handle := rfl
@[simp] theorem report_latSaved (s : State) (x : StatusReport) : (s.report x).latSaved = s.latSaved := rfl
@[simp] theorem report_latCaptured (s : State) (x : StatusReport) : (s.report x).latCaptured = s.latCaptured := rfl
@[simp] theorem report_slow (s : State) (x : StatusReport) : (s.report x).slow = s.slow := rfl
@[simp] theorem report_clkdiv (s : State) (x : StatusReport) : (s.report x).clkdiv = s.clkdiv := rfl
@[simp] theorem report_gpioVal (s : State) (x : StatusReport) : (s.report x).gpioVal = s.gpioVal := rfl
@[simp] theorem report_gpioDir (s : State) (x : StatusReport) : (s.report x).gpioDir = s.gpioDir := rfl
@[simp] theorem report_gpioInLo (s : State) (x : StatusReport) : (s.report x).gpioInLo = s.gpioInLo := rfl
@[simp] theorem report_gpioInHi (s : State) (x : StatusReport) : (s.report x).gpioInHi = s.gpioInHi := rfl
@[simp] theorem report_bitsIn (s : State) (x : StatusReport) : (s.report x).bitsIn = s.bitsIn := rfl
@[simp] theorem report_status (s : State) (x : StatusReport) : (s.report x).status = s.status := rfl
@[simp] theorem report_dbcnt (s : State) (x : StatusReport) : (s.report x).dbcnt = s.dbcnt := rfl
@[simp] theorem report_jedecMfr (s : State) (x : StatusReport) : (s.report x).jedecMfr = s.jedecMfr := rfl
@[simp] theorem report_jedecDev (s : State) (x : StatusReport) : (s.report x).jedecDev = s.jedecDev := rfl
@[simp] theorem report_jedecExtlen (s : State) (x : StatusReport) : (s.report x).jedecExtlen = s.jedecExtlen := rfl
@[simp] theorem report_jedecExt (s : State) (x : StatusReport) : (s.report x).jedecExt = s.jedecExt := rfl
@[simp] theorem report_flashPwr (s : State) (x : StatusReport) : (s.report x).flashPwr = s.flashPwr := rfl
@[simp] theorem report_err (s : State) (x : StatusReport) : (s.report x).err = s.err := rfl
@[simp] theorem report_warnlog (s : State) (x : StatusReport) : (s.report x).warnlog = s.warnlog := rfl
@[simp] theorem report_txlog (s : State) (x : StatusReport) : (s.report x).txlog = s.txlog := rfl
@[simp] theorem report_mem (s : State) (x : StatusReport) : (s.report x).mem = s.mem := rfl
@[simp] theorem report_queue (s : State) (x : StatusReport) : (s.report x).queue = s.queue := rfl
@[simp] theorem report_writes (s : State) (x : StatusReport) : (s.report x).writes = s.writes := rfl
@[simp] theorem report_reads (s : State) (x : StatusReport) : (s.report x).reads = s.reads := rfl
@[simp] theorem report_ctrls (s : State) (x : StatusReport) : (s.report x).ctrls = s.ctrls := rfl
@[simp] theorem report_drawn (s : State) (x : StatusReport) : (s.report x).drawn = s.drawn := rfl
@[simp] theorem report_answer (s : State) (x : StatusReport) : (s.report x).answer = s.answer := rfl
@[simp] theorem report_reports (s : State) (x : StatusReport) : (s.report x).reports = s.reports ++ [x] := rfl
@[simp] theorem report_opts (s : State) (x : StatusReport) : (s.report x).opts = s.opts := rfl

/-! `reply` -/

@[simp] theorem reply_session (s : State) (x : Answer) : (s.reply x).session = s.session := rfl
@[simp] theorem reply_handle (s : State) (x : Answer) : (s.reply x).handle = s.handle := rfl
@[simp] theorem reply_latSaved (s : State) (x : Answer) : (s.reply x).latSaved = s.latSaved := rfl
@[simp] theorem reply_latCaptured (s : State) (x : Answer) : (s.reply x).latCaptured = s.latCaptured := rfl
@[simp] theorem reply_slow (s : State) (x : Answer) : (s.reply x).slow = s.slow := rfl
@[simp] theorem reply_clkdiv (s : State) (x : Answer) : (s.reply x).clkdiv = s.clkdiv := rfl
@[simp] theorem reply_gpioVal (s : State) (x : Answer) : (s.reply x).gpioVal = s.gpioVal := rfl
@[simp] theorem reply_gpioDir (s : State) (x : Answer) : (s.reply x).gpioDir = s.gpioDir := rfl
@[simp] theorem reply_gpioInLo (s : State) (x : Answer) : (s.reply x).gpioInLo = s.gpioInLo := rfl
@[simp] theorem reply_gpioInHi (s : State) (x : Answer) : (s.reply x).gpioInHi = s.gpioInHi := rfl
@[simp] theorem reply_bitsIn (s : State) (x : Answer) : (s.reply x).bitsIn = s.bitsIn := rfl
@[simp] theorem reply_status (s : State) (x : Answer) : (s.reply x).status = s.status := rfl
@[simp] theorem reply_dbcnt (s : State) (x : Answer) : (s.reply x).dbcnt = s.dbcnt := rfl
@[simp] theorem reply_jedecMfr (s : State) (x : Answer) : (s.reply x).jedecMfr = s.jedecMfr := rfl
@[simp] theorem reply_jedecDev (s : State) (x : Answer) : (s.reply x).jedecDev = s.jedecDev := rfl
@[simp] theorem reply_jedecExtlen (s : State) (x : Answer) : (s.reply x).jedecExtlen = s.jedecExtlen := rfl
@[simp] theorem reply_jedecExt (s : State) (x : Answer) : (s.reply x).jedecExt = s.jedecExt := rfl
@[simp] theorem reply_flashPwr (s : State) (x : Answer) : (s.reply x).flashPwr = s.flashPwr := rfl
@[simp] theorem reply_err (s : State) (x : Answer) : (s.reply x).err = s.err := rfl
@[simp] theorem reply_warnlog (s : State) (x : Answer) : (s.reply x).warnlog = s.warnlog := rfl
@[simp] theorem reply_txlog (s : State) (x : Answer) : (s.reply x).txlog = s.txlog := rfl
@[simp] theorem reply_mem (s : State) (x : Answer) : (s.reply x).mem = s.mem := rfl
@[simp] theorem reply_queue (s : State) (x : Answer) : (s.reply x).queue = s.queue := rfl
@[simp] theorem reply_writes (s : State) (x : Answer) : (s.reply x).writes = s.writes := rfl
@[simp] theorem reply_reads (s : State) (x : Answer) : (s.reply x).reads = s.reads := rfl
@[simp] theorem reply_ctrls (s : State) (x : Answer) : (s.reply x).ctrls = s.ctrls := rfl
@[simp] theorem reply_drawn (s : State) (x : Answer) : (s.reply x).drawn = s.drawn := rfl
@[simp] theorem reply_answer (s : State) (x : Answer) : (s.reply x).answer = x := rfl
@[simp] theorem reply_reports (s : State) (x : Answer) : (s.reply x).reports = s.reports := rfl
@[simp] theorem reply_opts (s : State) (x : Answer) : (s.reply x).opts = s.opts := rfl

/-! `raiseError` -/

@[simp] theorem raiseError_session (s : State) (c : Cause) (l : Layer) : (raiseError c l s).session = .failed := rfl
@[simp] theorem raiseError_handle (s : State) (c : Cause) (l : Layer) : (raiseError c l s).handle = s.handle := rfl
@[simp] theorem raiseError_latSaved (s : State) (c : Cause) (l : Layer) : (raiseError c l s).latSaved = s.latSaved := rfl
@[simp] theorem raiseError_latCaptured (s : State) (c : Cause) (l : Layer) : (raiseError c l s).latCaptured = s.latCaptured := rfl
@[simp] theorem raiseError_slow (s : State) (c : Cause) (l : Layer) : (raiseError c l s).slow = s.slow := rfl
@[simp] theorem raiseError_clkdiv (s : State) (c : Cause) (l : Layer) : (raiseError c l s).clkdiv = s.clkdiv := rfl
@[simp] theorem raiseError_gpioVal (s : State) (c : Cause) (l : Layer) : (raiseError c l s).gpioVal = s.gpioVal := rfl
@[simp] theorem raiseError_gpioDir (s : State) (c : Cause) (l : Layer) : (raiseError c l s).gpioDir = s.gpioDir := rfl
@[simp] theorem raiseError_gpioInLo (s : State) (c : Cause) (l : Layer) : (raiseError c l s).gpioInLo = s.gpioInLo := rfl
@[simp] theorem raiseError_gpioInHi (s : State) (c : Cause) (l : Layer) : (raiseError c l s).gpioInHi = s.gpioInHi := rfl
@[simp] theorem raiseError_bitsIn (s : State) (c : Cause) (l : Layer) : (raiseError c l s).bitsIn = s.bitsIn := rfl
@[simp] theorem raiseError_status (s : State) (c : Cause) (l : Layer) : (raiseError c l s).status = s.status := rfl
@[simp] theorem raiseError_dbcnt (s : State) (c : Cause) (l : Layer) : (raiseError c l s).dbcnt = s.dbcnt := rfl
@[simp] theorem raiseError_jedecMfr (s : State) (c : Cause) (l : Layer) : (raiseError c l s).jedecMfr = s.jedecMfr := rfl
@[simp] theorem raiseError_jedecDev (s : State) (c : Cause) (l : Layer) : (raiseError c l s).jedecDev = s.jedecDev := rfl
@[simp] theorem raiseError_jedecExtlen (s : State) (c : Cause) (l : Layer) : (raiseError c l s).jedecExtlen = s.jedecExtlen := rfl
@[simp] theorem raiseError_jedecExt (s : State) (c : Cause) (l : Layer) : (raiseError c l s).jedecExt = s.jedecExt := rfl
@[simp] theorem raiseError_flashPwr (s : State) (c : Cause) (l : Layer) : (raiseError c l s).flashPwr = s.flashPwr := rfl
@[simp] theorem raiseError_err (s : State) (c : Cause) (l : Layer) : (raiseError c l s).err = some ⟨.hardwareError, c, l⟩ := rfl
@[simp] theorem raiseError_warnlog (s : State) (c : Cause) (l : Layer) : (raiseError c l s).warnlog = s.warnlog := rfl
@[simp] theorem raiseError_txlog (s : State) (c : Cause) (l : Layer) : (raiseError c l s).txlog = s.txlog := rfl
@[simp] theorem raiseError_mem (s : State) (c : Cause) (l : Layer) : (raiseError c l s).mem = s.mem := rfl
@[simp] theorem raiseError_queue (s : State) (c : Cause) (l : Layer) : (raiseError c l s).queue = s.queue := rfl
@[simp] theorem raiseError_writes (s : State) (c : Cause) (l : Layer) : (raiseError c l s).writes = s.writes := rfl
@[simp] theorem raiseError_reads (s : State) (c : Cause) (l : Layer) : (raiseError c l s).reads = s.reads := rfl
@[simp] theorem raiseError_ctrls (s : State) (c : Cause) (l : Layer) : (raiseError c l s).ctrls = s.ctrls := rfl
@[simp] theorem raiseError_drawn (s : State) (c : Cause) (l : Layer) : (raiseError c l s).drawn = s.drawn := rfl
@[simp] theorem raiseError_answer (s : State) (c : Cause) (l : Layer) : (raiseError c l s).answer = .raised ⟨.hardwareError, c, l⟩ := rfl
@[simp] theorem raiseError_reports (s : State) (c : Cause) (l : Layer) : (raiseError c l s).reports = s.reports := rfl
@[simp] theorem raiseError_opts (s : State) (c : Cause) (l : Layer) : (raiseError c l s).opts = s.opts := rfl

/-! `debounce` -/

@[simp] theorem debounce_session (s : State) (sr : Byte) : (debounce sr s).session = s.session := rfl
@[simp] theorem debounce_handle (s : State) (sr : Byte) : (debounce sr s).handle = s.handle := rfl
@[simp] theorem debounce_latSaved (s : State) (sr : Byte) : (debounce sr s).latSaved = s.latSaved := rfl
@[simp] theorem debounce_latCaptured (s : State) (sr : Byte) : (debounce sr s).latCaptured = s.latCaptured := rfl
@[simp] theorem debounce_slow (s : State) (sr : Byte) : (debounce sr s).slow = s.slow := rfl
@[simp] theorem debounce_clkdiv (s : State) (sr : Byte) : (debounce sr s).clkdiv = s.clkdiv := rfl
@[simp] theorem debounce_gpioVal (s : State) (sr : Byte) : (debounce sr s).gpioVal = s.gpioVal := rfl
@[simp] theorem debounce_gpioDir (s : State) (sr : Byte) : (debounce sr s).gpioDir = s.gpioDir := rfl
@[simp] theorem debounce_gpioInLo (s : State) (sr : Byte) : (debounce sr s).gpioInLo = s.gpioInLo := rfl
@[simp] theorem debounce_gpioInHi (s : State) (sr : Byte) : (debounce sr s).gpioInHi = s.gpioInHi := rfl
@[simp] theorem debounce_bitsIn (s : State) (sr : Byte) : (debounce sr s).bitsIn = s.bitsIn := rfl
@[simp] theorem debounce_status (s : State) (sr : Byte) : (debounce sr s).status = s.status := rfl
@[simp] theorem debounce_dbcnt (s : State) (sr : Byte) : (debounce sr s).dbcnt = if statusBusy sr then 0 else s.dbcnt + 1 := rfl
@[simp] theorem debounce_jedecMfr (s : State) (sr : Byte) : (debounce sr s).jedecMfr = s.jedecMfr := rfl
@[simp] theorem debounce_jedecDev (s : State) (sr : Byte) : (debounce sr s).jedecDev = s.jedecDev := rfl
@[simp] theorem debounce_jedecExtlen (s : State) (sr : Byte) : (debounce sr s).jedecExtlen = s.jedecExtlen := rfl
@[simp] theorem debounce_jedecExt (s : State) (sr : Byte) : (debounce sr s).jedecExt = s.jedecExt := rfl
@[simp] theorem debounce_flashPwr (s : State) (sr : Byte) : (debounce sr s).flashPwr = s.flashPwr := rfl
@[simp] theorem debounce_err (s : State) (sr : Byte) : (debounce sr s).err = s.err := rfl
@[simp] theorem debounce_warnlog (s : State) (sr : Byte) : (debounce sr s).warnlog = s.warnlog := rfl
@[simp] theorem debounce_txlog (s : State) (sr : Byte) : (debounce sr s).txlog = s.txlog := rfl
@[simp] theorem debounce_mem (s : State) (sr : Byte) : (debounce sr s).mem = s.mem := rfl
@[simp] theorem debounce_queue (s : State) (sr : Byte) : (debounce sr s).queue = s.queue := rfl
@[simp] theorem debounce_writes (s : State) (sr : Byte) : (debounce sr s).writes = s.writes := rfl
@[simp] theorem debounce_reads (s : State) (sr : Byte) : (debounce sr s).reads = s.reads := rfl
@[simp] theorem debounce_ctrls (s : State) (sr : Byte) : (debounce sr s).ctrls = s.ctrls := rfl
@[simp] theorem debounce_drawn (s : State) (sr : Byte) : (debounce sr s).drawn = s.drawn := rfl
@[simp] theorem debounce_answer (s : State) (sr : Byte) : (debounce sr s).answer = s.answer := rfl
@[simp] theorem debounce_reports (s : State) (sr : Byte) : (debounce sr s).reports = s.reports := rfl
@[simp] theorem debounce_opts (s : State) (sr : Byte) : (debounce sr s).opts = s.opts := rfl

/-! `setJedec` -/

@[simp] theorem setJedec_session (s : State) (b : Bytes) : (setJedec b s).session = s.session := rfl
@[simp] theorem setJedec_handle (s : State) (b : Bytes) : (setJedec b s).handle = s.handle := rfl
@[simp] theorem setJedec_latSaved (s : State) (b : Bytes) : (setJedec b s).latSaved = s.latSaved := rfl
@[simp] theorem setJedec_latCaptured (s : State) (b : Bytes) : (setJedec b s).latCaptured = s.latCaptured := rfl
@[simp] theorem setJedec_slow (s : State) (b : Bytes) : (setJedec b s).slow = s.slow := rfl
@[simp] theorem setJedec_clkdiv (s : State) (b : Bytes) : (setJedec b s).clkdiv = s.clkdiv := rfl
@[simp] theorem setJedec_gpioVal (s : State) (b : Bytes) : (setJedec b s).gpioVal = s.gpioVal := rfl
@[simp] theorem setJedec_gpioDir (s : State) (b : Bytes) : (setJedec b s).gpioDir = s.gpioDir := rfl
@[simp] theorem setJedec_gpioInLo (s : State) (b : Bytes) : (setJedec b s).gpioInLo = s.gpioInLo := rfl
@[simp] theorem setJedec_gpioInHi (s : State) (b : Bytes) : (setJedec b s).gpioInHi = s.gpioInHi := rfl
@[simp] theorem setJedec_bitsIn (s : State) (b : Bytes) : (setJedec b s).bitsIn = s.bitsIn := rfl
@[simp] theorem setJedec_status (s : State) (b : Bytes) : (setJedec b s).status = s.status := rfl
@[simp] theorem setJedec_dbcnt (s : State) (b : Bytes) : (setJedec b s).dbcnt = s.dbcnt := rfl
@[simp] theorem setJedec_jedecMfr (s : State) (b : Bytes) : (setJedec b s).jedecMfr = some (b.getD 1 0) := rfl
@[simp] theorem setJedec_jedecDev (s : State) (b : Bytes) : (setJedec b s).jedecDev = some (b.getD 2 0, b.getD 3 0) := rfl
@[simp] theorem setJedec_jedecExtlen (s : State) (b : Bytes) : (setJedec b s).jedecExtlen = some (b.getD 4 0) := rfl
@[simp] theorem setJedec_jedecExt (s : State) (b : Bytes) : (setJedec b s).jedecExt = s.jedecExt := rfl
@[simp] theorem setJedec_flashPwr (s : State) (b : Bytes) : (setJedec b s).flashPwr = s.flashPwr := rfl
@[simp] theorem setJedec_err (s : State) (b : Bytes) : (setJedec b s).err = s.err := rfl
@[simp] theorem setJedec_warnlog (s : State) (b : Bytes) : (setJedec b s).warnlog = s.warnlog := rfl
@[simp] theorem setJedec_txlog (s : State) (b : Bytes) : (setJedec b s).txlog = s.txlog := rfl
@[simp] theorem setJedec_mem (s : State) (b : Bytes) : (setJedec b s).mem = s.mem := rfl
@[simp] theorem setJedec_queue (s : State) (b : Bytes) : (setJedec b s).queue = s.queue := rfl
@[simp] theorem setJedec_writes (s : State) (b : Bytes) : (setJedec b s).writes = s.writes := rfl
@[simp] theorem setJedec_reads (s : State) (b : Bytes) : (setJedec b s).reads = s.reads := rfl
@[simp] theorem setJedec_ctrls (s : State) (b : Bytes) : (setJedec b s).ctrls = s.ctrls := rfl
@[simp] theorem setJedec_drawn (s : State) (b : Bytes) : (setJedec b s).drawn = s.drawn := rfl
@[simp] theorem setJedec_answer (s : State) (b : Bytes) : (setJedec b s).answer = s.answer := rfl
@[simp] theorem setJedec_reports (s : State) (b : Bytes) : (setJedec b s).reports = s.reports := rfl
@[simp] theorem setJedec_opts (s : State) (b : Bytes) : (setJedec b s).opts = s.opts := rfl

/-! `clearJedec` -/

@[simp] theorem clearJedec_session (s : State) : (clearJedec s).session = s.session := rfl
@[simp] theorem clearJedec_handle (s : State) : (clearJedec s).handle = s.handle := rfl
@[simp] theorem clearJedec_latSaved (s : State) : (clearJedec s).latSaved = s.latSaved := rfl
@[simp] theorem clearJedec_latCaptured (s : State) : (clearJedec s).latCaptured = s.latCaptured := rfl
@[simp] theorem clearJedec_slow (s : State) : (clearJedec s).slow = s.slow := rfl
@[simp] theorem clearJedec_clkdiv (s : State) : (clearJedec s).clkdiv = s.clkdiv := rfl
@[simp] theorem clearJedec_gpioVal (s : State) : (clearJedec s).gpioVal = s.gpioVal := rfl
@[simp] theorem clearJedec_gpioDir (s : State) : (clearJedec s).gpioDir = s.gpioDir := rfl
@[simp] theorem clearJedec_gpioInLo (s : State) : (clearJedec s).gpioInLo = s.gpioInLo := rfl
@[simp] theorem clearJedec_gpioInHi (s : State) : (clearJedec s).gpioInHi = s.gpioInHi := rfl
@[simp] theorem clearJedec_bitsIn (s : State) : (clearJedec s).bitsIn = s.bitsIn := rfl
@[simp] theorem clearJedec_status (s : State) : (clearJedec s).status = s.status := rfl
@[simp] theorem clearJedec_dbcnt (s : State) : (clearJedec s).dbcnt = s.dbcnt := rfl
@[simp] theorem clearJedec_jedecMfr (s : State) : (clearJedec s).jedecMfr = none := rfl
@[simp] theorem clearJedec_jedecDev (s : State) : (clearJedec s).jedecDev = none := rfl
@[simp] theorem clearJedec_jedecExtlen (s : State) : (clearJedec s).jedecExtlen = none := rfl
@[simp] theorem clearJedec_jedecExt (s : State) : (clearJedec s).jedecExt = none := rfl
@[simp] theorem clearJedec_flashPwr (s : State) : (clearJedec s).flashPwr = s.flashPwr := rfl
@[simp] theorem clearJedec_err (s : State) : (clearJedec s).err = s.err := rfl
@[simp] theorem clearJedec_warnlog (s : State) : (clearJedec s).warnlog = s.warnlog := rfl
@[simp] theorem clearJedec_txlog (s : State) : (clearJedec s).txlog = s.txlog := rfl
@[simp] theorem clearJedec_mem (s : State) : (clearJedec s).mem = s.mem := rfl
@[simp] theorem clearJedec_queue (s : State) : (clearJedec s).queue = s.queue := rfl
@[simp] theorem clearJedec_writes (s : State) : (clearJedec s).writes = s.writes := rfl
@[simp] theorem clearJedec_reads (s : State) : (clearJedec s).reads = s.reads := rfl
@[simp] theorem clearJedec_ctrls (s : State) : (clearJedec s).ctrls = s.ctrls := rfl
@[simp] theorem clearJedec_drawn (s : State) : (clearJedec s).drawn = s.drawn := rfl
@[simp] theorem clearJedec_answer (s : State) : (clearJedec s).answer = s.answer := rfl
@[simp] theorem clearJedec_reports (s : State) : (clearJedec s).reports = s.reports := rfl
@[simp] theorem clearJedec_opts (s : State) : (clearJedec s).opts = s.opts := rfl

/-! Composition of link events. -/

@[simp] theorem linked_linked (s : State) (e e' : List LinkEvent) (w w' : List WriteAns) (r r' : List ReadAns)
    (c c' : List CtrlAns) (d d' : Nat) :
    (s.linked e w r c d).linked e' w' r' c' d' = s.linked (e ++ e') w' r' c' d' := by
  simp [State.linked]

@[simp] theorem linked_log (s : State) (e : List LinkEvent) (w : List WriteAns) (r : List ReadAns)
    (c : List CtrlAns) (d : Nat) (x : LinkEvent) :
    (s.linked e w r c d).log x = s.linked (e ++ [x]) w r c d := by
  simp [State.linked, State.log]

theorem log_eq_linked (s : State) (x : LinkEvent) :
    s.log x = s.linked [x] s.writes s.reads s.ctrls s.drawn := rfl

theorem linked_nil (s : State) : s.linked [] s.writes s.reads s.ctrls s.drawn = s := by
  simp [State.linked]

theorem LinkedTo.refl (s : State) : LinkedTo s s [] := ⟨_, _, _, _, (linked_nil s).symm⟩

theorem LinkedTo.trans {s t u : State} {e e' : List LinkEvent} (h : LinkedTo s t e) (h' : LinkedTo t u e') :
    LinkedTo s u (e ++ e') := by
  obtain ⟨w, r, c, d, rfl⟩ := h
  obtain ⟨w', r', c', d', rfl⟩ := h'
  exact ⟨w', r', c', d', linked_linked ..⟩

end Sys2Proof.Machine
end

