-- ==== Sys2Proof/Laws/Memory.lean ====
section
/-! SUPPORT. Host memory: every operation keeps the canonical form; a read after a write. -/

namespace Sys2Proof.Machine

theorem wf_nil : Memory.wf [] = true := rfl

/-- The canonical form of a longer list: the head is listed for a reason, lies below the rest, and the rest is
canonical. -/
theorem wf_cons (k : Nat) (v : Byte) (r : Memory) :
    Memory.wf ((k, v) :: r) = true ↔
      v ≠ memDefault ∧ (∀ k' v' r', r = (k', v') :: r' → k < k') ∧ Memory.wf r = true := by
  cases r with
  | nil => simp [Memory.wf]
  | cons p r =>
    obtain ⟨k', v'⟩ := p
    simp only [Memory.wf, Bool.and_eq_true, decide_eq_true_eq]
    constructor
    · rintro ⟨⟨h1, h2⟩, h3⟩
      refine ⟨h1, ?_, h3⟩
      intro a b c h
      cases h
      exact h2
    · rintro ⟨h1, h2, h3⟩
      exact ⟨⟨h1, h2 _ _ _ rfl⟩, h3⟩

/-- The keys of a canonical list all lie above a lower bound of its head. -/
theorem memRead_below (m : Memory) (a : Nat) (h : Memory.wf m = true)
    (hlt : ∀ k v r, m = (k, v) :: r → a < k) : memRead m a = memDefault := by
  induction m with
  | nil => rfl
  | cons p r ih =>
    obtain ⟨k, v⟩ := p
    have hk := hlt k v r rfl
    have hw := (wf_cons k v r).mp h
    simp only [memRead]
    rw [if_neg (by omega)]
    exact ih hw.2.2 fun k' v' r' e => lt_trans hk (hw.2.1 k' v' r' e)

/-- A write leaves every other address as it was (in every memory, canonical or not). -/
theorem memRead_memWrite_ne (m : Memory) (a x : Nat) (b : Byte) (h : x ≠ a) :
    memRead (memWrite m a b) x = memRead m x := by
  induction m with
  | nil =>
    simp only [memWrite]
    split
    · rfl
    · simp [memRead, Ne.symm h]
  | cons p r ih =>
    obtain ⟨k, v⟩ := p
    simp only [memWrite]
    split
    · split
      · rfl
      · simp [memRead, Ne.symm h]
    · split
      · rename_i hk
        subst hk
        split
        · simp [memRead, Ne.symm h]
        · simp [memRead, Ne.symm h]
      · simp only [memRead, ih]

/-- A write is read back. -/
theorem memRead_memWrite_self (m : Memory) (a : Nat) (b : Byte) (h : Memory.wf m = true) :
    memRead (memWrite m a b) a = b := by
  induction m with
  | nil =>
    simp only [memWrite]
    split
    · rename_i hb
      simp [memRead, hb]
    · simp [memRead]
  | cons p r ih =>
    obtain ⟨k, v⟩ := p
    have hw := (wf_cons k v r).mp h
    simp only [memWrite]
    split
    · rename_i hlt
      split
      · rename_i hb
        rw [memRead_below _ _ h (by intro k' v' r' e; cases e; exact hlt), hb]
      · simp [memRead]
    · split
      · rename_i hk
        subst hk
        split
        · rename_i hb
          rw [memRead_below _ _ hw.2.2 hw.2.1, hb]
        · simp [memRead]
      · rename_i hne
        simp only [memRead]
        rw [if_neg (Ne.symm hne)]
        exact ih hw.2.2

/-- The head of a write is the written address or the old head. -/
theorem memWrite_head (m : Memory) (a : Nat) (b : Byte) (k : Nat) (v : Byte) (r : Memory)
    (h : memWrite m a b = (k, v) :: r) : k = a ∨ (∃ v' r', m = (k, v') :: r') ∨
      (∃ k' v' r', m = (k', v') :: r' ∧ k' = a ∧ ∃ v'' r'', r' = (k, v'') :: r'') := by
  cases m with
  | nil =>
    simp only [memWrite] at h
    split at h <;> simp_all
  | cons p r' =>
    obtain ⟨k', v'⟩ := p
    simp only [memWrite] at h
    split at h
    · split at h
      · exact .inr (.inl ⟨v, r, h⟩)
      · cases h; exact .inl rfl
    · split at h
      · rename_i he
        split at h
        · exact .inr (.inr ⟨k', v', r', rfl, he.symm, v, r, h⟩)
        · cases h; exact .inl rfl
      · cases h; exact .inr (.inl ⟨_, r', rfl⟩)

/-- A write keeps the canonical form. -/
theorem wf_memWrite (m : Memory) (a : Nat) (b : Byte) (h : Memory.wf m = true) :
    Memory.wf (memWrite m a b) = true := by
  induction m with
  | nil =>
    simp only [memWrite]
    split
    · rfl
    · rename_i hb; simp [Memory.wf, hb]
  | cons p r ih =>
    obtain ⟨k, v⟩ := p
    have hw := (wf_cons k v r).mp h
    simp only [memWrite]
    split
    · rename_i hlt
      split
      · exact h
      · rename_i hb
        exact (wf_cons _ _ _).mpr ⟨hb, by intro k' v' r' e; cases e; exact hlt, h⟩
    · split
      · rename_i hlt hk
        subst hk
        split
        · exact hw.2.2
        · rename_i hb
          exact (wf_cons _ _ _).mpr ⟨hb, hw.2.1, hw.2.2⟩
      · rename_i hlt hne
        refine (wf_cons _ _ _).mpr ⟨hw.1, ?_, ih hw.2.2⟩
        intro k' v' r' e
        rcases memWrite_head _ _ _ _ _ _ e with rfl | ⟨v'', r'', e'⟩ | ⟨k2, v2, r2, e2, h2, v3, r3, e3⟩
        · omega
        · exact hw.2.1 _ _ _ e'
        · subst e2 e3 h2
          have hk2 := hw.2.1 _ _ _ rfl
          have := ((wf_cons _ _ _).mp hw.2.2).2.1 _ _ _ rfl
          omega

/-- Writing several bytes keeps the canonical form. -/
theorem wf_writeBytes (bs : Bytes) (m : Memory) (a : Nat) (h : Memory.wf m = true) :
    Memory.wf (writeBytes m a bs) = true := by
  induction bs generalizing m a with
  | nil => exact h
  | cons b bs ih => exact ih _ _ (wf_memWrite m a b h)

/-- Writing several bytes leaves every address outside them as it was. -/
theorem memRead_writeBytes_outside (bs : Bytes) (m : Memory) (a x : Nat) (h : x < a ∨ a + bs.length ≤ x) :
    memRead (writeBytes m a bs) x = memRead m x := by
  induction bs generalizing m a with
  | nil => rfl
  | cons b bs ih =>
    simp only [List.length_cons] at h
    rw [writeBytes, ih _ _ (by omega), memRead_memWrite_ne _ _ _ _ (by omega)]

/-- Several written bytes are read back. -/
theorem readBytes_writeBytes (bs : Bytes) (m : Memory) (a : Nat) (h : Memory.wf m = true) :
    readBytes (writeBytes m a bs) a bs.length = bs := by
  induction bs generalizing m a with
  | nil => rfl
  | cons b bs ih =>
    simp only [List.length_cons, readBytes, writeBytes]
    rw [ih _ _ (wf_memWrite m a b h), memRead_writeBytes_outside _ _ _ _ (by omega),
      memRead_memWrite_self _ _ _ h]

@[simp] theorem readBytes_length (m : Memory) (a n : Nat) : (readBytes m a n).length = n := by
  induction n generalizing a with
  | zero => rfl
  | succ n ih => simp [readBytes, ih]

/-- Writing the first bytes of a range: it then reads as those bytes and its old rest. -/
theorem readBytes_writeBytes_front (bs : Bytes) (m : Memory) (a n : Nat) (h : Memory.wf m = true)
    (hn : bs.length ≤ n) : readBytes (writeBytes m a bs) a n = bs ++ (readBytes m a n).drop bs.length := by
  induction bs generalizing m a n with
  | nil => simp [writeBytes]
  | cons b bs ih =>
    obtain ⟨n, rfl⟩ : ∃ k, n = k + 1 := ⟨n - 1, by simp only [List.length_cons] at hn; omega⟩
    have hd : readBytes (memWrite m a b) (a + 1) n = readBytes m (a + 1) n := by
      have key : ∀ k x, a < x → readBytes (memWrite m a b) x k = readBytes m x k := by
        intro k
        induction k with
        | zero => intro x _; rfl
        | succ k ihk =>
          intro x hx
          rw [readBytes, readBytes, ihk (x + 1) (by omega), memRead_memWrite_ne m a x b (by omega)]
      exact key n (a + 1) (by omega)
    rw [writeBytes, readBytes, ih _ _ _ (wf_memWrite m a b h) (by simpa using hn),
      memRead_writeBytes_outside _ _ _ _ (by omega), memRead_memWrite_self _ _ _ h, hd]
    simp [readBytes]

theorem writeBytes_append (bs cs : Bytes) (m : Memory) (a : Nat) :
    writeBytes m a (bs ++ cs) = writeBytes (writeBytes m a bs) (a + bs.length) cs := by
  induction bs generalizing m a with
  | nil => rfl
  | cons b bs ih => simp only [List.cons_append, writeBytes, ih, List.length_cons]; congr 1; omega

/-- A store through a transfer keeps the canonical form. -/
theorem wf_store (s : State) (dst : Option Nat) (i : Nat) (b : Byte) (h : Memory.wf s.mem = true) :
    Memory.wf (s.store dst i b).mem = true := by
  cases dst with
  | none => exact h
  | some base => exact wf_memWrite _ _ _ h

end Sys2Proof.Machine
end

