-- ==== Sys2Proof/Laws/Run.lean ====
section
/-! SUPPORT. What a piece of pseudocode can do, said once: `Foot` is its footprint on the state, `Run` is the footprint
of every way it can end, and the rules here compose them along `Res.bind`. -/

namespace Sys2Proof.Machine

/-- The clauses of `Inv` that hold in the middle of a request too, when `SESSION`, `HANDLE` and `ERR` are not yet in
step with each other. -/
structure InvMid (s : State) : Prop where
  memory : Memory.wf s.mem = true
  chipSelect : ∀ v, s.gpioVal = some v → v.getLsbD Config.csBit = false → v.getLsbD Config.cresetBit = false
  direction : ∀ v, s.gpioVal = some v → s.gpioDir = some Config.gpioDirMask
  captured : s.latCaptured = true → s.handle = true ∧ ∃ v, s.latSaved = some v
  divisor : s.clkdiv = s.slow.map divisorOf
  extended : ∀ e, s.jedecExt = some e →
    ∃ l, s.jedecExtlen = some l ∧ e.length = if l = 0x00 ∨ l = Config.jedecGlitch then 0 else l.toNat

theorem Inv.mid {s : State} (h : Inv s) : InvMid s :=
  ⟨h.memory, h.chipSelect, h.direction, h.captured, h.divisor, h.extended⟩

/-- A raise ends in the invariant: it latches the error and the failed session. -/
theorem InvMid.raise {s : State} (h : InvMid s) (c : Cause) (l : Layer) : Inv (raiseError c l s) where
  memory := h.memory
  chipSelect := h.chipSelect
  direction := h.direction
  openSession := by simp
  captured := h.captured
  closedSession := by simp
  failedSession := by simp
  divisor := h.divisor
  extended := h.extended

/-- The footprint from `s` to `t` with the link events `evs`: no register outside `W` and `TXLOG` changes, no byte of
memory outside `rng` = (first address, count), the logs only grow, and the surroundings stay. -/
structure Foot (W : List Reg) (rng : Nat × Nat) (s t : State) (evs : List LinkEvent) : Prop where
  txlog : t.txlog = s.txlog ++ evs
  regs : ∀ r, r ∉ W → r ≠ .txlog → hostRead r t = hostRead r s
  mem : ∀ a, ¬(rng.1 ≤ a ∧ a < rng.1 + rng.2) → memRead t.mem a = memRead s.mem a
  warns : s.warnlog <+: t.warnlog
  reports : s.reports <+: t.reports
  queue : t.queue = s.queue
  opts : t.opts = s.opts
  mid : InvMid s → InvMid t

theorem Foot.refl (W : List Reg) (rng : Nat × Nat) (s : State) : Foot W rng s s [] where
  txlog := (List.append_nil _).symm
  regs _ _ _ := rfl
  mem _ _ := rfl
  warns := List.prefix_rfl
  reports := List.prefix_rfl
  queue := rfl
  opts := rfl
  mid := id

theorem Foot.trans {W : List Reg} {rng : Nat × Nat} {s t u : State} {e e' : List LinkEvent}
    (h : Foot W rng s t e) (h' : Foot W rng t u e') : Foot W rng s u (e ++ e') where
  txlog := by rw [h'.txlog, h.txlog, List.append_assoc]
  regs r hr ht := (h'.regs r hr ht).trans (h.regs r hr ht)
  mem a ha := (h'.mem a ha).trans (h.mem a ha)
  warns := h.warns.trans h'.warns
  reports := h.reports.trans h'.reports
  queue := h'.queue.trans h.queue
  opts := h'.opts.trans h.opts
  mid := h'.mid ∘ h.mid

theorem Foot.mono {W W' : List Reg} {rng rng' : Nat × Nat} {s t : State} {e : List LinkEvent}
    (h : Foot W rng s t e) (hW : ∀ r, r ∈ W → r ∈ W')
    (hr : ∀ a, rng.1 ≤ a ∧ a < rng.1 + rng.2 → rng'.1 ≤ a ∧ a < rng'.1 + rng'.2) : Foot W' rng' s t e where
  txlog := h.txlog
  regs r hr' ht := h.regs r (fun hm => hr' (hW r hm)) ht
  mem a ha := h.mem a fun hx => ha (hr a hx)
  warns := h.warns
  reports := h.reports
  queue := h.queue
  opts := h.opts
  mid := h.mid

/-- Link events alone change no register but `TXLOG`. -/
theorem LinkedTo.foot {s t : State} {e : List LinkEvent} (h : LinkedTo s t e) (W : List Reg) (rng : Nat × Nat) :
    Foot W rng s t e := by
  obtain ⟨w, r, c, d, rfl⟩ := h
  refine ⟨rfl, ?_, fun _ _ => rfl, List.prefix_rfl, List.prefix_rfl, rfl, rfl, ?_⟩
  · intro r _ ht
    cases r <;> first | rfl | exact absurd rfl ht
  · exact fun hm => ⟨hm.memory, hm.chipSelect, hm.direction, hm.captured, hm.divisor, hm.extended⟩

/-! Reading single registers out of a footprint. -/

theorem Foot.session {W rng s t e} (h : Foot W rng s t e) (hr : Reg.session ∉ W) : t.session = s.session := by
  simpa [hostRead] using h.regs .session hr (by decide)

theorem Foot.handle {W rng s t e} (h : Foot W rng s t e) (hr : Reg.handle ∉ W) : t.handle = s.handle := by
  simpa [hostRead] using h.regs .handle hr (by decide)

theorem Foot.latCaptured {W rng s t e} (h : Foot W rng s t e) (hr : Reg.latCaptured ∉ W) :
    t.latCaptured = s.latCaptured := by
  simpa [hostRead] using h.regs .latCaptured hr (by decide)

theorem Foot.err {W rng s t e} (h : Foot W rng s t e) (hr : Reg.err ∉ W) : t.err = s.err := by
  simpa [hostRead] using h.regs .err hr (by decide)

theorem orUndefined_inj {α : Type} (mk : α → RegVal) (inj : ∀ a b, mk a = mk b → a = b) (x y : Option α)
    (h : orUndefined mk x = orUndefined mk y) : x = y := by
  cases x <;> cases y <;> simp_all [orUndefined]
  exact inj _ _ h

theorem Foot.gpioVal {W rng s t e} (h : Foot W rng s t e) (hr : Reg.gpioVal ∉ W) : t.gpioVal = s.gpioVal :=
  orUndefined_inj .byte (by simp) _ _ (h.regs .gpioVal hr (by decide))

/-- A footprint that writes none of the session's registers keeps the invariant. -/
theorem Foot.inv {W rng s t e} (h : Foot W rng s t e) (hs : Reg.session ∉ W) (hh : Reg.handle ∉ W)
    (hl : Reg.latCaptured ∉ W) (he : Reg.err ∉ W) (hi : Inv s) : Inv t where
  memory := (h.mid hi.mid).memory
  chipSelect := (h.mid hi.mid).chipSelect
  direction := (h.mid hi.mid).direction
  openSession := by rw [h.session hs, h.handle hh, h.latCaptured hl, h.err he]; exact hi.openSession
  captured := (h.mid hi.mid).captured
  closedSession := by rw [h.session hs, h.handle hh]; exact hi.closedSession
  failedSession := by rw [h.session hs, h.err he]; exact hi.failedSession
  divisor := (h.mid hi.mid).divisor
  extended := (h.mid hi.mid).extended

/-! Every way to end. -/

/-- How pseudocode may end: `P` on going on, `R` on a raise, `F` on a fault; a hang is always allowed. -/
def Res.Sat {α : Type} (r : Res α) (P : α → State → Prop) (R : Cause → State → Prop) (F : FCode → State → Prop) :
    Prop :=
  match r with
  | .ok a t => P a t
  | .raised c t => R c t
  | .faulted f t => F f t
  | .hung => True

/-- None of the events failed. -/
def Clean (evs : List LinkEvent) : Prop := ∀ e ∈ evs, eventFailed e = false

theorem Clean.nil : Clean [] := by simp [Clean]

theorem Clean.one {e : LinkEvent} (h : eventFailed e = false) : Clean [e] := by simpa [Clean] using h

theorem Clean.append {a b : List LinkEvent} (h : Clean a) (h' : Clean b) : Clean (a ++ b) := by
  intro e he
  rcases List.mem_append.mp he with he | he
  · exact h e he
  · exact h' e he

/-- A run from `s` that cannot fault: it goes on with the footprint, no failed event and `Q`, or raises with the
footprint, its last event being the first failing one, and `Z`. -/
def Run {α : Type} (W : List Reg) (rng : Nat × Nat) (s : State) (r : Res α)
    (Q : α → State → List LinkEvent → Prop) (Z : Cause → State → Prop) : Prop :=
  r.Sat (fun a t => ∃ evs, Foot W rng s t evs ∧ Clean evs ∧ Q a t evs)
    (fun c t => ∃ evs e, Foot W rng s t (evs ++ [e]) ∧ Clean evs ∧ failingEvent c e = true ∧ Z c t)
    (fun _ _ => False)

theorem Run.bind {α β : Type} {W : List Reg} {rng : Nat × Nat} {s : State} {r : Res α} {k : α → State → Res β}
    {Q : α → State → List LinkEvent → Prop} {Q' : β → State → List LinkEvent → Prop} {Z : Cause → State → Prop}
    (h : Run W rng s r Q Z)
    (hk : ∀ a t evs, Foot W rng s t evs → Q a t evs →
      Run W rng t (k a t) (fun b u evs' => Q' b u (evs ++ evs')) Z) :
    Run W rng s (r.bind k) Q' Z := by
  cases r with
  | ok a t =>
    obtain ⟨evs, hf, hcl, hq⟩ := h
    have := hk a t evs hf hq
    show Run W rng s (k a t) Q' Z
    unfold Run at this ⊢
    cases hkk : k a t with
    | ok b u =>
      rw [hkk] at this
      obtain ⟨evs', hf', hcl', hq'⟩ := this
      exact ⟨_, hf.trans hf', hcl.append hcl', hq'⟩
    | raised c u =>
      rw [hkk] at this
      obtain ⟨evs', e, hf', hcl', he, hz⟩ := this
      exact ⟨evs ++ evs', e, by simpa using hf.trans hf', hcl.append hcl', he, hz⟩
    | faulted f u => rw [hkk] at this; exact this
    | hung => trivial
  | raised c t => exact h
  | faulted f t => exact h
  | hung => trivial

theorem Run.mono {α : Type} {W W' : List Reg} {rng rng' : Nat × Nat} {s : State} {r : Res α}
    {Q Q' : α → State → List LinkEvent → Prop} {Z Z' : Cause → State → Prop} (h : Run W rng s r Q Z)
    (hW : ∀ r, r ∈ W → r ∈ W')
    (hr : ∀ a, rng.1 ≤ a ∧ a < rng.1 + rng.2 → rng'.1 ≤ a ∧ a < rng'.1 + rng'.2)
    (hQ : ∀ a t evs, Foot W rng s t evs → Q a t evs → Q' a t evs)
    (hZ : ∀ c t evs, Foot W rng s t evs → Z c t → Z' c t) : Run W' rng' s r Q' Z' := by
  unfold Run at h ⊢
  cases r with
  | ok a t =>
    obtain ⟨evs, hf, hcl, hq⟩ := h
    exact ⟨evs, hf.mono hW hr, hcl, hQ _ _ _ hf hq⟩
  | raised c t =>
    obtain ⟨evs, e, hf, hcl, he, hz⟩ := h
    exact ⟨evs, e, hf.mono hW hr, hcl, he, hZ _ _ _ hf hz⟩
  | faulted f t => exact h
  | hung => trivial

/-- Weaken what is claimed of the ends only. -/
theorem Run.weaken {α : Type} {W : List Reg} {rng : Nat × Nat} {s : State} {r : Res α}
    {Q Q' : α → State → List LinkEvent → Prop} {Z Z' : Cause → State → Prop} (h : Run W rng s r Q Z)
    (hQ : ∀ a t evs, Foot W rng s t evs → Q a t evs → Q' a t evs)
    (hZ : ∀ c t evs, Foot W rng s t evs → Z c t → Z' c t) : Run W rng s r Q' Z' :=
  h.mono (fun _ => id) (fun _ => id) hQ hZ

/-- Going on with a register update. -/
theorem Run.pure {α : Type} {W : List Reg} {rng : Nat × Nat} {s t : State} {a : α}
    {Q : α → State → List LinkEvent → Prop} {Z : Cause → State → Prop} {evs : List LinkEvent}
    (hf : Foot W rng s t evs) (hq : Q a t evs) (hc : Clean evs := by simp [Clean, eventFailed]) :
    Run W rng s (.ok a t) Q Z := ⟨evs, hf, hc, hq⟩

/-! Frames of link events. -/

/-- The events clock out exactly the frames `fs` and read exactly their responses. -/
def FrameEvents (evs : List LinkEvent) (fs : List Instr) : Prop :=
  (∀ f ∈ fs, emittable f) ∧ txBytes evs = framesBytes fs ∧ (rxBytes evs).length = framesResponse fs

/-- The events make whole frames. -/
def Framed (evs : List LinkEvent) : Prop := ∃ fs, FrameEvents evs fs

@[simp] theorem txBytes_append (a b : List LinkEvent) : txBytes (a ++ b) = txBytes a ++ txBytes b := by
  simp [txBytes]

@[simp] theorem rxBytes_append (a b : List LinkEvent) : rxBytes (a ++ b) = rxBytes a ++ rxBytes b := by
  simp [rxBytes]

theorem Framed.nil : Framed [] := ⟨[], by simp, rfl, rfl⟩

theorem Framed.append {a b : List LinkEvent} (h : Framed a) (h' : Framed b) : Framed (a ++ b) := by
  obtain ⟨fs, h1, h2, h3⟩ := h
  obtain ⟨gs, g1, g2, g3⟩ := h'
  refine ⟨fs ++ gs, ?_, ?_, ?_⟩
  · intro f hf
    rcases List.mem_append.mp hf with hf | hf
    · exact h1 f hf
    · exact g1 f hf
  · rw [txBytes_append, h2, g2]; simp [framesBytes]
  · rw [rxBytes_append, List.length_append, h3, g3]; simp [framesResponse]

/-- Events that neither write nor read bytes of the streams. -/
theorem Framed.silent {a : List LinkEvent} (h : txBytes a = []) (h' : rxBytes a = []) : Framed a :=
  ⟨[], by simp, by rw [h]; rfl, by rw [h']; rfl⟩

/-- One frame's events. -/
theorem Framed.one {a : List LinkEvent} {f : Instr} (hf : emittable f) (h : txBytes a = (encode f).getD [])
    (h' : (rxBytes a).length = (responseBytes f).getD 0) : Framed a :=
  ⟨[f], by simpa using hf, by simp [h, framesBytes], by simp [h', framesResponse]⟩

end Sys2Proof.Machine
end

