-- ==== Sys2Proof/Laws/Ops.lean ====
section
/-! SUPPORT. One lemma per shared operation: everything it can do. -/

namespace Sys2Proof.Machine

/-! Transport calls. -/

theorem drawWrite_linked (s : State) : LinkedTo s (drawWrite s).2 [] := by
  unfold drawWrite
  split
  · rename_i r _
    exact ⟨r, s.reads, s.ctrls, s.drawn, by simp [State.linked]⟩
  · exact ⟨s.writes, s.reads, s.ctrls, s.drawn + 1, by simp [State.linked]⟩

theorem drawRead_linked (s : State) : LinkedTo s (drawRead s).2 [] := by
  unfold drawRead
  split
  · rename_i r _
    exact ⟨s.writes, r, s.ctrls, s.drawn, by simp [State.linked]⟩
  · exact ⟨s.writes, s.reads, s.ctrls, s.drawn + 1, by simp [State.linked]⟩

theorem drawCtrl_linked (s : State) : LinkedTo s (drawCtrl s).2 [] := by
  unfold drawCtrl
  split
  · rename_i r _
    exact ⟨s.writes, s.reads, r, s.drawn, by simp [State.linked]⟩
  · exact ⟨s.writes, s.reads, s.ctrls, s.drawn + 1, by simp [State.linked]⟩

theorem LinkedTo.log {s t : State} {e : List LinkEvent} (h : LinkedTo s t e) (x : LinkEvent) :
    LinkedTo s (t.log x) (e ++ [x]) := by
  obtain ⟨w, r, c, d, rfl⟩ := h
  exact ⟨w, r, c, d, linked_log ..⟩

/-- `TxWrite(bs)` logs one write; it goes on exactly when the count is `len(bs)` (R99), and then the bridge received all
of `bs`. -/
theorem txWrite_run (W : List Reg) (rng : Nat × Nat) (bs : Bytes) (s : State) :
    Run W rng s (txWrite bs s) (fun _ t evs => evs = [wrote bs] ∧ LinkedTo s t evs) (fun c _ => c = .shortWrite) := by
  have hl := drawWrite_linked s
  unfold txWrite
  by_cases hc : countOf bs.length (drawWrite s).1 = bs.length
  · have hg : gotOf bs.length (drawWrite s).1 = bs.length := by
      revert hc
      cases (drawWrite s).1 with
      | full => intro _; rfl
      | count c pre => intro hc; simp only [countOf] at hc; simp [gotOf, hc]
    simp only [hc, hg, if_true]
    have := hl.log (wrote bs)
    exact ⟨_, this.foot W rng, by simp [Clean, eventFailed, wrote], rfl, this⟩
  · simp only [hc, if_false]
    exact ⟨[], _, (hl.log _).foot W rng, Clean.nil, by simpa [failingEvent] using hc, rfl⟩

/-- A checked control call logs one control event (R97, R109). -/
theorem ctrl_run (W : List Reg) (rng : Nat × Nat) (op : CtrlOp) (s : State) :
    Run W rng s (ctrl op s) (fun _ t evs => LinkedTo s t evs ∧ Framed evs ∧ txBytes evs = [])
      (fun c _ => c = .ctrlFail) := by
  have hl := (drawCtrl_linked s).log (.ctrl op (ctrlResult op (drawCtrl s).1))
  unfold ctrl ctrlCall
  cases h : (drawCtrl s).1 with
  | success v =>
    rw [h] at hl
    exact ⟨_, hl.foot W rng, by cases op <;> exact Clean.one rfl, hl, Framed.silent rfl rfl, rfl⟩
  | failure =>
    rw [h] at hl
    refine ⟨[], _, hl.foot W rng, Clean.nil, ?_, rfl⟩
    cases op <;> rfl

/-- A control call whose result is ignored logs one control event. -/
theorem ctrlCall_linked (op : CtrlOp) (s : State) :
    LinkedTo s (ctrlCall op s).2 [.ctrl op (ctrlResult op (drawCtrl s).1)] :=
  (drawCtrl_linked s).log _

theorem rxRead1_linked (s : State) : LinkedTo s (rxRead1 s).2 [.read (rxRead1 s).1] :=
  (drawRead_linked s).log _

/-- `RECV1` reads exactly one byte, after some empty polls, or raises at a negative count or at the poll bound
(R100). -/
theorem recvLoop_run (W : List Reg) (rng : Nat × Nat) (fuel polls : Nat) (s : State) :
    Run W rng s (recvLoop fuel polls s)
      (fun b t evs => LinkedTo s t evs ∧ txBytes evs = [] ∧ rxBytes evs = [b])
      (fun c _ => c = .readNeg ∨ c = .pollBound) := by
  induction fuel generalizing polls s with
  | zero => trivial
  | succ fuel ih =>
    have hl := rxRead1_linked s
    rw [recvLoop]
    revert hl
    generalize rxRead1 s = x
    obtain ⟨a, t⟩ := x
    intro hl
    cases a with
    | byte b => exact ⟨_, hl.foot W rng, Clean.one rfl, hl, rfl, rfl⟩
    | negative n => exact ⟨[], _, hl.foot W rng, Clean.nil, rfl, .inl rfl⟩
    | empty =>
      simp only
      split
      · exact ⟨[], _, hl.foot W rng, Clean.nil, rfl, .inr rfl⟩
      · have hl2 := hl.log (.idle .rx)
        have := ih (polls + 1) (t.log (.idle .rx))
        have hce : Clean [.read .empty, .idle .rx] := by simp [Clean, eventFailed]
        unfold Run at this ⊢
        cases h : recvLoop fuel (polls + 1) (t.log (.idle .rx)) with
        | ok b u =>
          rw [h] at this
          obtain ⟨evs, hf, hcl, hlk, h1, h2⟩ := this
          exact ⟨_, (hl2.foot W rng).trans hf, hce.append hcl, hl2.trans hlk, by rw [txBytes_append, h1]; rfl,
            by rw [rxBytes_append, h2]; rfl⟩
        | raised c u =>
          rw [h] at this
          obtain ⟨evs, e, hf, hcl, he, hz⟩ := this
          refine ⟨[.read .empty] ++ [.idle .rx] ++ evs, e, ?_, hce.append hcl, he, hz⟩
          have := (hl2.foot W rng).trans hf
          simpa using this
        | faulted f u => rw [h] at this; exact this
        | hung => trivial

theorem recv1_run (W : List Reg) (rng : Nat × Nat) (s : State) :
    Run W rng s (recv1 s) (fun b t evs => LinkedTo s t evs ∧ txBytes evs = [] ∧ rxBytes evs = [b])
      (fun c _ => c = .readNeg ∨ c = .pollBound) :=
  recvLoop_run W rng _ 0 s

/-- A store of one byte inside the range has a footprint with no event. -/
theorem store_foot (W : List Reg) (rng : Nat × Nat) (s : State) (dst : Option Nat) (i : Nat) (b : Byte)
    (h : ∀ base, dst = some base → rng.1 ≤ base + i ∧ base + i < rng.1 + rng.2) :
    Foot W rng s (s.store dst i b) [] := by
  cases dst with
  | none => exact Foot.refl W rng s
  | some base =>
    have hb := h base rfl
    refine ⟨(List.append_nil _).symm, ?_, ?_, List.prefix_rfl, List.prefix_rfl, rfl, rfl, ?_⟩
    · intro r _ _; cases r <;> rfl
    · intro a ha
      exact memRead_memWrite_ne _ _ _ _ (by rintro rfl; exact ha hb)
    · intro hm
      exact ⟨wf_memWrite _ _ _ hm.memory, hm.chipSelect, hm.direction, hm.captured, hm.divisor, hm.extended⟩

/-- The receive of `n` bytes: exactly `n` bytes are read (R103). -/
theorem recvMany_run (W : List Reg) (rng : Nat × Nat) (dst : Option Nat) (n i : Nat) (s : State)
    (h : ∀ base, dst = some base → rng.1 ≤ base + i ∧ base + i + n ≤ rng.1 + rng.2) :
    Run W rng s (recvMany dst n i s)
      (fun bs _ evs => bs.length = n ∧ txBytes evs = [] ∧ rxBytes evs = bs)
      (fun c _ => c = .readNeg ∨ c = .pollBound) := by
  induction n generalizing i s with
  | zero => exact ⟨[], Foot.refl W rng s, Clean.nil, rfl, rfl, rfl⟩
  | succ n ih =>
    rw [recvMany]
    refine (recv1_run W rng s).bind ?_
    rintro b t evs - ⟨-, h1, h2⟩
    have hst := store_foot W rng t dst i b (fun base e => by have := h base e; omega)
    have := (ih (i + 1) (t.store dst i b) (fun base e => by have := h base e; omega))
    have h3 : Run W rng t
        ((recvMany dst n (i + 1) (t.store dst i b)))
        (fun bs _ evs => bs.length = n ∧ txBytes evs = [] ∧ rxBytes evs = bs)
        (fun c _ => c = .readNeg ∨ c = .pollBound) := by
      unfold Run at this ⊢
      cases hr : recvMany dst n (i + 1) (t.store dst i b) with
      | ok bs u => rw [hr] at this; obtain ⟨e, hf, hq⟩ := this; exact ⟨e, by simpa using hst.trans hf, hq⟩
      | raised c u =>
        rw [hr] at this; obtain ⟨e, x, hf, hcl, he, hz⟩ := this; exact ⟨e, x, by simpa using hst.trans hf, hcl, he, hz⟩
      | faulted f u => rw [hr] at this; exact this
      | hung => trivial
    refine h3.bind ?_
    rintro bs u evs' - ⟨g0, g1, g2⟩
    refine Run.pure (Foot.refl W rng u) ⟨by simp [g0], by simp [h1, g1], by simp [h2, g2]⟩

/-! Requests of the engine. -/

theorem byteFrame_emittable_bo (p : Bytes) (h1 : 1 ≤ p.length) (h2 : p.length ≤ Config.maxFrame) :
    emittable (.lfBo p) := ⟨rfl, by simp only [Instr.wf]; exact decide_eq_true ⟨h1, h2⟩, by intro d h; cases h⟩

theorem byteFrame_emittable_bx (p : Bytes) (h1 : 1 ≤ p.length) (h2 : p.length ≤ Config.maxFrame) :
    emittable (.lfBx p) := ⟨rfl, by simp only [Instr.wf]; exact decide_eq_true ⟨h1, h2⟩, by intro d h; cases h⟩

@[simp] theorem txBytes_wrote (bs : Bytes) (r : List LinkEvent) : txBytes (wrote bs :: r) = bs ++ txBytes r := by
  simp [txBytes, eventTx, wrote]

@[simp] theorem rxBytes_wrote (bs : Bytes) (r : List LinkEvent) : rxBytes (wrote bs :: r) = rxBytes r := by
  simp [rxBytes, eventRx, wrote]

@[simp] theorem txBytes_nil : txBytes [] = [] := rfl

@[simp] theorem rxBytes_nil : rxBytes [] = [] := rfl

/-- `SEND` of an admitted length: nothing for no byte, else one LF-BO frame (R101, R102). -/
theorem sendOp_run (W : List Reg) (rng : Nat × Nat) (data : Bytes) (s : State) (hs : s.session = .opened)
    (hl : data.length ≤ Config.maxFrame) :
    Run W rng s (sendOp 0x11 data s) (fun _ t evs => LinkedTo s t evs ∧ Framed evs ∧ evs = frameEvents 0x11 data)
      (fun c _ => c = .shortWrite) := by
  unfold sendOp
  rw [if_neg (by simp [hs]), if_neg (by simp), if_neg (by omega)]
  split
  · rename_i h0
    have : data = [] := List.eq_nil_of_length_eq_zero h0
    subst this
    exact ⟨[], Foot.refl W rng s, Clean.nil, LinkedTo.refl s, Framed.nil, rfl⟩
  · rename_i h0
    refine (txWrite_run W rng _ s).bind ?_
    rintro - t evs - ⟨rfl, hlk⟩
    refine (txWrite_run W rng _ t).weaken ?_ (fun _ _ _ _ h => h)
    rintro - u evs' - ⟨rfl, hlk'⟩
    have hne : data ≠ [] := by rintro rfl; exact h0 rfl
    refine ⟨hlk.trans hlk', ?_, by simp [frameEvents, hne]⟩
    refine Framed.one (byteFrame_emittable_bo data (by omega) hl) ?_ ?_ <;>
      simp [encode, responseBytes]

/-- `XFER` of an admitted length: nothing for no byte, else one LF-BX frame and its response (R102, R103). -/
theorem xferOp_run (W : List Reg) (rng : Nat × Nat) (x : XferBuf) (n : Nat) (s : State) (hs : s.session = .opened)
    (hl : n ≤ Config.maxFrame) (hb : n ≤ xferLen x)
    (hr : ∀ base, xferDst x = some base → rng.1 ≤ base ∧ base + n ≤ rng.1 + rng.2) :
    Run W rng s (xferOp 0x31 x n s) (fun bs _ evs => bs.length = n ∧ Framed evs) (fun _ _ => True) := by
  unfold xferOp
  rw [if_neg (by simp [hs]), if_neg (by simp), if_neg (by omega), if_neg (by omega)]
  split
  · rename_i h0
    exact ⟨[], Foot.refl W rng s, Clean.nil, h0.symm, Framed.nil⟩
  · rename_i h0
    refine ((txWrite_run W rng _ s).weaken (fun _ _ _ _ h => h) (fun _ _ _ _ _ => trivial)).bind ?_
    rintro - t evs - ⟨rfl, -⟩
    refine ((txWrite_run W rng _ t).weaken (fun _ _ _ _ h => h) (fun _ _ _ _ _ => trivial)).bind ?_
    rintro - u evs' - ⟨rfl, -⟩
    refine (recvMany_run W rng _ n 0 u (by simpa using hr)).weaken ?_ (fun _ _ _ _ _ => trivial)
    rintro bs v evs - ⟨h1, h2, h3⟩
    refine ⟨h1, ?_⟩
    have hlen : (xferBytes x n t.mem).length = n := by
      cases x with
      | host b => simp [xferBytes, bufRead]
      | own l => simpa [xferBytes, xferLen] using hb
    refine Framed.one (byteFrame_emittable_bx (xferBytes x n t.mem) (by omega) (by omega)) ?_ ?_
    · simp [encode, h2, hlen]
    · simp [responseBytes, h3, h1, hlen]

/-- The footprint of a set-GPIO write. -/
theorem gpio_foot {s t : State} {e : List LinkEvent} (h : LinkedTo s t e) (rng : Nat × Nat) (v : Option Byte)
    (d : Option Byte) (hv : ∀ x, v = some x → x.getLsbD Config.csBit = false → x.getLsbD Config.cresetBit = false)
    (hd : ∀ x, v = some x → d = some Config.gpioDirMask) :
    Foot gpioRegs rng s { t with gpioVal := v, gpioDir := d } e := by
  obtain ⟨w, r, c, dr, rfl⟩ := h
  refine ⟨rfl, ?_, fun _ _ => rfl, List.prefix_rfl, List.prefix_rfl, rfl, rfl, ?_⟩
  · intro r hr ht
    cases r <;> first | rfl | exact absurd rfl ht | (exact absurd (by decide) hr)
  · exact fun hm => ⟨hm.memory, hv, hd, hm.captured, hm.divisor, hm.extended⟩

/-- An admitted `SET_GPIO`: one LF-GSET frame; after a failed write `GPIO_VAL` is ⊥ (R106). -/
theorem setGpioOp_run (rng : Nat × Nat) (v : Byte) (s : State) (hs : s.session = .opened)
    (hc : csOrderOk v s = true) :
    Run gpioRegs rng s (setGpioOp v Config.gpioDirMask s)
      (fun _ t evs => t.gpioVal = some v ∧ evs = [gsetEvent v] ∧ Framed evs)
      (fun c t => c = .shortWrite ∧ t.gpioVal = none) := by
  have hv : v.getLsbD Config.csBit = false → v.getLsbD Config.cresetBit = false := by
    intro h
    unfold csOrderOk at hc
    rw [h] at hc
    simp only [Bool.false_or, Bool.and_eq_true, Bool.not_eq_true'] at hc
    exact hc.1
  unfold setGpioOp
  rw [if_neg (by simp [hs]), if_neg (by simp), if_neg (by simp [hc])]
  have hl := (drawWrite_linked s)
  unfold txWrite
  simp only
  by_cases hcnt : countOf [(0x80 : Byte), v, Config.gpioDirMask].length (drawWrite s).1
      = ([(0x80 : Byte), v, Config.gpioDirMask].length : Nat)
  · have hg : gotOf [(0x80 : Byte), v, Config.gpioDirMask].length (drawWrite s).1
        = [(0x80 : Byte), v, Config.gpioDirMask].length := by
      revert hcnt
      cases (drawWrite s).1 with
      | full => intro _; rfl
      | count c pre => intro hcnt; simp only [countOf] at hcnt; simp only [gotOf, hcnt, if_true]
    rw [if_pos hcnt]
    have h2 := hl.log (gsetEvent v)
    refine ⟨[gsetEvent v], ?_, by simp [Clean, eventFailed, gsetEvent, wrote], rfl, rfl, ?_⟩
    · rw [hcnt, hg]
      refine gpio_foot h2 rng _ _ ?_ ?_
      · intro x hx; cases hx; exact hv
      · intro _ _; rfl
    · exact Framed.one (f := .lfGset v) ⟨rfl, rfl, by intro d h; cases h⟩ (by simp [gsetEvent, encode])
        (by simp [gsetEvent, responseBytes])
  · rw [if_neg hcnt]
    refine ⟨[], _, gpio_foot (hl.log _) rng none _ (by simp) (by simp), Clean.nil, ?_, rfl, rfl⟩
    simpa [failingEvent] using hcnt

theorem csOrderOk_deselect (s : State) : csOrderOk Config.gpioDeselect s = true := rfl

theorem csOrderOk_release (s : State) : csOrderOk Config.gpioRelease s = true := rfl

theorem csOrderOk_select_of (s : State) (v : Byte) (h : s.gpioVal = some v) (hv : v.getLsbD 7 = false) :
    csOrderOk Config.gpioSelect s = true := by
  unfold csOrderOk resetHeld
  rw [h]
  simpa [Config.cresetBit] using hv

/-- `SELECT` is admitted exactly where the board is already held in reset (R114). -/
theorem csOrderOk_select_iff (s : State) : csOrderOk Config.gpioSelect s = true ↔ InReset s := by
  refine ⟨fun h => ?_, fun ⟨g, h1, h2⟩ => csOrderOk_select_of s g h1 h2⟩
  unfold csOrderOk resetHeld at h
  cases hg : s.gpioVal with
  | none => rw [hg] at h; simp at h
  | some g => rw [hg] at h; exact ⟨g, hg, by simpa using h⟩

theorem csOrderOk_select_10 (s : State) (h : s.gpioVal = some 0x10) : csOrderOk Config.gpioSelect s = true :=
  csOrderOk_select_of s _ h rfl

/-- `BSEND` of a whole admitted list: one LF-BO frame (R120). -/
theorem bsendAll_run (W : List Reg) (rng : Nat × Nat) (bs : Bytes) (s : State) (hs : s.session = .opened)
    (hl : bs.length ≤ Config.maxFrame) :
    Run W rng s (bsendAll bs s) (fun _ t evs => LinkedTo s t evs ∧ Framed evs ∧ evs = frameEvents 0x11 bs)
      (fun c _ => c = .shortWrite) := by
  unfold bsendAll bsendOp
  rw [if_neg (by simp [hs]), if_neg (by omega), List.take_length]
  exact sendOp_run W rng bs s hs hl

/-- `BSEND data, n` of an admitted length (R120). -/
theorem bsendOp_run (W : List Reg) (rng : Nat × Nat) (bs : Bytes) (n : Nat) (s : State) (hs : s.session = .opened)
    (hn : n ≤ bs.length) (hl : n ≤ Config.maxFrame) :
    Run W rng s (bsendOp bs n s)
      (fun _ t evs => LinkedTo s t evs ∧ Framed evs ∧ evs = frameEvents 0x11 (bs.take n))
      (fun c _ => c = .shortWrite) := by
  unfold bsendOp
  rw [if_neg (by simp [hs]), if_neg (by omega)]
  exact sendOp_run W rng _ s hs (by simp; omega)

/-- `BXFER B, len(B)` on an array inside a request (R121). -/
theorem bxferAll_run (W : List Reg) (rng : Nat × Nat) (bs : Bytes) (s : State) (hs : s.session = .opened)
    (hl : bs.length ≤ Config.maxFrame) :
    Run W rng s (bxferAll bs s) (fun r _ evs => r.length = bs.length ∧ Framed evs) (fun _ _ => True) :=
  xferOp_run W rng (.own bs) bs.length s hs hl (le_refl _) (by intro base h; cases h)

/-! Transactions. -/

/-- The line a raise of a flash request leaves, but for a busy bound: chip-select asserted or unknown (R124). -/
def lineAfterRaise (c : Cause) (t : State) : Prop := c ≠ .busyBound → t.gpioVal = none ∨ t.gpioVal = some 0x00

/-- Where the first `SELECT` of a flash request is refused, so is the request, with nothing done (R124, R171). -/
theorem txn_fault {α : Type} (body : State → Res α) (s : State) (hs : s.session = .opened)
    (hc : csOrderOk Config.gpioSelect s = false) : txn body s = .faulted .csOrder s := by
  unfold txn selectOp setGpioOp
  rw [if_neg (by simp [hs]), if_neg (by simp [hs]), if_neg (by simp), if_pos (by rw [hc]; rfl)]
  rfl

/-- A transaction (R124): the bracket around a body that leaves the lines alone. It ends with chip-select deasserted
and reset held. -/
theorem txn_run {α : Type} (rng : Nat × Nat) (body : State → Res α) (s : State) (Q : α → Prop)
    (hs : s.session = .opened) (hc : csOrderOk Config.gpioSelect s = true)
    (hb : ∀ t, t.session = .opened → Run [] rng t (body t) (fun a _ evs => Framed evs ∧ Q a) (fun _ _ => True)) :
    Run gpioRegs rng s (txn body s)
      (fun a t evs => Framed evs ∧ t.gpioVal = some 0x10 ∧ Q a) lineAfterRaise := by
  unfold txn
  rw [if_neg (by simp [hs])]
  refine ((setGpioOp_run rng Config.gpioSelect s hs hc).weaken (fun _ _ _ _ h => h)
    (fun _ _ _ _ h _ => .inl h.2)).bind ?_
  rintro - t evs hf ⟨hv, -, hfr⟩
  have hts : t.session = .opened := (hf.session (by decide)).trans hs
  refine ((hb t hts).mono (W' := gpioRegs) (by simp) (fun _ => id)
    (Q' := fun a u evs => Framed evs ∧ Q a ∧ u.session = .opened ∧ u.gpioVal = some 0x00)
    (Z' := lineAfterRaise) ?_ ?_).bind ?_
  · rintro a u evs hf ⟨h1, h2⟩
    exact ⟨h1, h2, (hf.session (by simp)).trans hts, (hf.gpioVal (by simp)).trans hv⟩
  · intro c u evs hf _ _
    exact .inr ((hf.gpioVal (by simp)).trans hv)
  · rintro a u evs' - ⟨hfr', hq, hus, -⟩
    refine ((setGpioOp_run rng Config.gpioDeselect u hus (csOrderOk_deselect u)).weaken (fun _ _ _ _ h => h)
      (fun _ _ _ _ h _ => .inl h.2)).bind ?_
    rintro - v evs'' - ⟨hg, -, hfr''⟩
    exact Run.pure (Foot.refl _ _ _) ⟨by
      have := hfr.append (hfr'.append (hfr''.append Framed.nil))
      simpa using this, hg, hq⟩

/-- A register update that touches only the listed registers. -/
theorem update_foot {W : List Reg} {rng : Nat × Nat} {s t : State} (htx : t.txlog = s.txlog)
    (hregs : ∀ r, r ∉ W → r ≠ .txlog → hostRead r t = hostRead r s) (hmem : t.mem = s.mem)
    (hw : s.warnlog <+: t.warnlog) (hr : s.reports <+: t.reports) (hq : t.queue = s.queue) (ho : t.opts = s.opts)
    (hm : InvMid s → InvMid t) : Foot W rng s t [] :=
  ⟨by rw [htx, List.append_nil], hregs, fun a _ => by rw [hmem], hw, hr, hq, ho, hm⟩

end Sys2Proof.Machine
end

