-- ==== Sys2Proof/Laws/Answers.lean ====
section
/-! SUPPORT. What each shared operation answers when the state holds the transport's answers: one equation per operation
and way to end. A proof about one request rewrites with these and never unfolds a transport call. -/

namespace Sys2Proof.Machine

theorem txWrite_full (bs : Bytes) (s : State) (w : List WriteAns) (h : s.writes = .full :: w) :
    txWrite bs s = .ok () (s.sent [wrote bs] w) := by
  simp [txWrite, drawWrite, h, countOf, gotOf, State.log, State.linked, wrote]

theorem txWrite_short (bs : Bytes) (s : State) (c : Int) (p : Nat) (w : List WriteAns)
    (h : s.writes = .count c p :: w) (hc : c ≠ bs.length) :
    txWrite bs s = .raised .shortWrite (s.sent [.write bs c (min p bs.length)] w) := by
  simp [txWrite, drawWrite, h, countOf, gotOf, State.log, State.linked, hc]

theorem ctrl_success (op : CtrlOp) (s : State) (v : Byte) (c : List CtrlAns) (h : s.ctrls = .success v :: c) :
    ctrl op s = .ok v (s.controlled [.ctrl op (ctrlResult op (.success v))] c) := by
  simp [ctrl, ctrlCall, drawCtrl, h, State.log, State.linked]

theorem ctrl_failure (op : CtrlOp) (s : State) (c : List CtrlAns) (h : s.ctrls = .failure :: c) :
    ctrl op s = .raised .ctrlFail (s.controlled [.ctrl op .failure] c) := by
  simp [ctrl, ctrlCall, drawCtrl, h, State.log, State.linked]
  cases op <;> rfl

theorem rxRead1_held (s : State) (a : ReadAns) (r : List ReadAns) (h : s.reads = a :: r) :
    rxRead1 s = (a, s.moved [.read a] s.writes r) := by
  simp [rxRead1, drawRead, h, State.log, State.linked]

theorem boundReached_mono {b : Option Nat} {m n : Nat} (h : boundReached b n = false) (hm : m ≤ n) :
    boundReached b m = false := by
  cases b with
  | none => rfl
  | some b => simp only [boundReached, decide_eq_false_iff_not] at h ⊢; omega

/-- `RECV1` after some empty polls (R100). -/
theorem recvLoop_byte (j fuel polls : Nat) (b : Byte) (r : List ReadAns) (s : State)
    (h : s.reads = List.replicate j .empty ++ .byte b :: r) (hf : j < fuel)
    (hb : j = 0 ∨ boundReached s.opts.pollBound (polls + j) = false) :
    recvLoop fuel polls s = .ok b (s.moved (emptyPolls j ++ [.read (.byte b)]) s.writes r) := by
  induction j generalizing fuel polls s with
  | zero =>
    obtain ⟨fuel, rfl⟩ : ∃ k, fuel = k + 1 := ⟨fuel - 1, by omega⟩
    rw [recvLoop, rxRead1_held s (.byte b) r (by simpa using h)]
    rfl
  | succ j ih =>
    obtain ⟨fuel, rfl⟩ : ∃ k, fuel = k + 1 := ⟨fuel - 1, by omega⟩
    have hb' : boundReached s.opts.pollBound (polls + (j + 1)) = false := by simpa using hb
    rw [recvLoop, rxRead1_held s .empty (List.replicate j .empty ++ .byte b :: r) (by simpa [List.replicate_succ] using h)]
    have hx : boundReached s.opts.pollBound (polls + 1) = false := boundReached_mono hb' (by omega)
    simp only [linked_opts, hx, Bool.false_eq_true, if_false]
    rw [linked_log, ih fuel (polls + 1) _ rfl (by omega) (.inr (by simpa [Nat.add_assoc, Nat.add_comm 1 j] using hb'))]
    simp [emptyPolls]

/-- `RECV1` reaching its bound (R100). -/
theorem recvLoop_bound (j fuel polls : Nat) (r : List ReadAns) (s : State)
    (h : s.reads = List.replicate (j + 1) .empty ++ r) (hf : j < fuel)
    (hb : boundReached s.opts.pollBound (polls + j) = false ∨ j = 0)
    (hb' : boundReached s.opts.pollBound (polls + j + 1) = true) :
    recvLoop fuel polls s = .raised .pollBound (s.moved (emptyPolls j ++ [.read .empty]) s.writes r) := by
  induction j generalizing fuel polls s with
  | zero =>
    obtain ⟨fuel, rfl⟩ : ∃ k, fuel = k + 1 := ⟨fuel - 1, by omega⟩
    rw [recvLoop, rxRead1_held s .empty r (by simpa using h)]
    have hx : boundReached s.opts.pollBound (polls + 1) = true := by simpa using hb'
    simp only [linked_opts, hx, if_true]
    rfl
  | succ j ih =>
    obtain ⟨fuel, rfl⟩ : ∃ k, fuel = k + 1 := ⟨fuel - 1, by omega⟩
    have hb1 : boundReached s.opts.pollBound (polls + (j + 1)) = false := by simpa using hb
    rw [recvLoop, rxRead1_held s .empty (List.replicate (j + 1) .empty ++ r) (by simpa [List.replicate_succ] using h)]
    have hx : boundReached s.opts.pollBound (polls + 1) = false := boundReached_mono hb1 (by omega)
    simp only [linked_opts, hx, Bool.false_eq_true, if_false]
    rw [linked_log, ih fuel (polls + 1) _ rfl (by omega) (.inl (by simpa [Nat.add_assoc, Nat.add_comm 1 j] using hb1))
      (by simpa [Nat.add_assoc, Nat.add_comm 1 j] using hb')]
    simp [emptyPolls]

/-- `RECV1` running out of fuel: the hang of R175. -/
theorem recvLoop_hung (fuel polls : Nat) (r : List ReadAns) (s : State)
    (h : s.reads = List.replicate fuel .empty ++ r) (hb : s.opts.pollBound = none) :
    recvLoop fuel polls s = .hung := by
  induction fuel generalizing polls s with
  | zero => rfl
  | succ fuel ih =>
    rw [recvLoop, rxRead1_held s .empty (List.replicate fuel .empty ++ r) (by simpa [List.replicate_succ] using h)]
    simp only [linked_opts, hb, boundReached, Bool.false_eq_true, if_false]
    rw [linked_log]
    exact ih _ _ rfl hb

/-- `RECV1` meeting a negative count after some empty polls (R100). -/
theorem recvLoop_negative (j fuel polls k : Nat) (r : List ReadAns) (s : State)
    (h : s.reads = List.replicate j .empty ++ .negative k :: r) (hf : j < fuel)
    (hb : j = 0 ∨ boundReached s.opts.pollBound (polls + j) = false) :
    recvLoop fuel polls s = .raised .readNeg (s.moved (emptyPolls j ++ [.read (.negative k)]) s.writes r) := by
  induction j generalizing fuel polls s with
  | zero =>
    obtain ⟨fuel, rfl⟩ : ∃ k, fuel = k + 1 := ⟨fuel - 1, by omega⟩
    rw [recvLoop, rxRead1_held s (.negative k) r (by simpa using h)]
    rfl
  | succ j ih =>
    obtain ⟨fuel, rfl⟩ : ∃ k, fuel = k + 1 := ⟨fuel - 1, by omega⟩
    have hb' : boundReached s.opts.pollBound (polls + (j + 1)) = false := by simpa using hb
    rw [recvLoop, rxRead1_held s .empty (List.replicate j .empty ++ .negative k :: r)
      (by simpa [List.replicate_succ] using h)]
    have hx : boundReached s.opts.pollBound (polls + 1) = false := boundReached_mono hb' (by omega)
    simp only [linked_opts, hx, Bool.false_eq_true, if_false]
    rw [linked_log, ih fuel (polls + 1) _ rfl (by omega)
      (.inr (by simpa [Nat.add_assoc, Nat.add_comm 1 j] using hb'))]
    simp [emptyPolls]

theorem turns_pos (b : Option Nat) (f : Nat) : 0 < turns b f := by cases b <;> exact Nat.succ_pos _

/-- What fits is below the turns followed, and does not reach the bound (R100). -/
theorem PollsFit.spec {o : Options} {j : Nat} (h : PollsFit o j) :
    j < turns o.pollBound o.fuel ∧ (j = 0 ∨ boundReached o.pollBound (0 + j) = false) := by
  unfold PollsFit at h
  cases hb : o.pollBound with
  | none => rw [hb] at h; exact ⟨Nat.lt_succ_of_le h, .inr rfl⟩
  | some p =>
    rw [hb] at h
    simp only [turns, boundReached, decide_eq_false_iff_not, Nat.succ_eq_add_one] at h ⊢
    omega

/-- `RECV1` returns a byte after empty polls that fit (R100). -/
theorem recv1_delayed (j : Nat) (b : Byte) (r : List ReadAns) (s : State)
    (h : s.reads = List.replicate j .empty ++ .byte b :: r) (hj : PollsFit s.opts j) :
    recv1 s = .ok b (s.moved (emptyPolls j ++ [.read (.byte b)]) s.writes r) :=
  recvLoop_byte j _ 0 b r s h hj.spec.1 hj.spec.2

theorem PollsFit.zero (o : Options) : PollsFit o 0 := by
  unfold PollsFit
  split
  · exact Nat.zero_le _
  · exact .inl rfl

theorem recv1_byte (b : Byte) (r : List ReadAns) (s : State) (h : s.reads = .byte b :: r) :
    recv1 s = .ok b (s.moved [.read (.byte b)] s.writes r) :=
  recv1_delayed 0 b r s (by simpa using h) (.zero _)

theorem recv1_negative (n : Nat) (r : List ReadAns) (s : State) (h : s.reads = .negative n :: r) :
    recv1 s = .raised .readNeg (s.moved [.read (.negative n)] s.writes r) :=
  recvLoop_negative 0 _ 0 n r s (by simpa using h) (turns_pos _ _) (.inl rfl)

/-- With a finite bound `RECV1` never hangs (R100, R175). -/
theorem recvLoop_ne_hung (fuel polls p : Nat) (s : State) (hb : s.opts.pollBound = some p) (hf : p < polls + fuel)
    (h0 : 0 < fuel) : recvLoop fuel polls s ≠ .hung := by
  induction fuel generalizing polls s with
  | zero => omega
  | succ fuel ih =>
    have ho : (rxRead1 s).2.opts = s.opts := by
      unfold rxRead1 drawRead
      cases s.reads <;> rfl
    rw [recvLoop]
    generalize rxRead1 s = x at ho
    obtain ⟨a, t⟩ := x
    cases a with
    | byte b => nofun
    | negative n => nofun
    | empty =>
      simp only at ho ⊢
      rw [ho, hb]
      split
      · nofun
      · rename_i hn
        simp only [boundReached, decide_eq_true_eq] at hn
        exact ih (polls + 1) _ (by rw [← hb, ← ho]; rfl) (by omega) (by omega)

/-- Host memory after a transfer stored `bs` from index `i` of its buffer, if it has one. -/
def storedMem (m : Memory) (dst : Option Nat) (i : Nat) (bs : Bytes) : Memory :=
  match dst with
  | none => m
  | some base => writeBytes m (base + i) bs

/-- The receive of held bytes, each after its empty polls (R100, R103). -/
theorem recvMany_delayed (dst : Option Nat) (ds : List (Nat × Byte)) (i : Nat) (r : List ReadAns) (s : State)
    (h : s.reads = delayedReads ds ++ r) (hj : ∀ d ∈ ds, PollsFit s.opts d.1) :
    recvMany dst ds.length i s =
      .ok (ds.map Prod.snd) { s.moved (delayedEvents ds) s.writes r with
        mem := storedMem s.mem dst i (ds.map Prod.snd) } := by
  induction ds generalizing i s with
  | nil =>
    have : s.reads = r := by simpa [delayedReads] using h
    subst this
    cases dst <;> simp [recvMany, delayedEvents, storedMem, writeBytes, State.linked]
  | cons d ds ih =>
    rw [List.length_cons, recvMany, recv1_delayed d.1 d.2 (delayedReads ds ++ r) s (by simpa [delayedReads] using h)
      (hj d (by simp))]
    simp only [Res.bind]
    rw [ih (i + 1) _ (by cases dst <;> rfl) (by cases dst <;> exact fun x hx => hj x (by simp [hx]))]
    cases dst <;> simp [State.store, storedMem, writeBytes, State.linked, delayedEvents, Nat.add_assoc]

theorem delayed_none (bs : Bytes) : delayedReads (bs.map fun b => (0, b)) = byteReads bs ∧
    delayedEvents (bs.map fun b => (0, b)) = readEvents bs := by
  induction bs with
  | nil => exact ⟨rfl, rfl⟩
  | cons b bs ih => simpa [delayedReads, delayedEvents, emptyPolls, byteReads, readEvents] using ih

/-- The receive of held bytes (R103). -/
theorem recvMany_bytes (dst : Option Nat) (bs : Bytes) (i : Nat) (r : List ReadAns) (s : State)
    (h : s.reads = byteReads bs ++ r) :
    recvMany dst bs.length i s =
      .ok bs { s.moved (readEvents bs) s.writes r with mem := storedMem s.mem dst i bs } := by
  have := recvMany_delayed dst (bs.map fun b => (0, b)) i r s (by rw [(delayed_none bs).1, h])
    (by simpa using fun _ _ => PollsFit.zero s.opts)
  simpa [(delayed_none bs).2, Function.comp_def] using this

/-- The receive that fails after the held bytes `bs` (R103). -/
theorem recvMany_negative (dst : Option Nat) (bs : Bytes) (i m k : Nat) (r : List ReadAns) (s : State)
    (h : s.reads = byteReads bs ++ .negative k :: r) (hm : bs.length < m) :
    recvMany dst m i s =
      .raised .readNeg
        { s.moved (readEvents bs ++ [.read (.negative k)]) s.writes r with mem := storedMem s.mem dst i bs } := by
  induction bs generalizing i m s with
  | nil =>
    obtain ⟨m, rfl⟩ : ∃ j, m = j + 1 := ⟨m - 1, by omega⟩
    rw [recvMany, recv1_negative k r s (by simpa [byteReads] using h)]
    cases dst <;> simp [Res.bind, readEvents, storedMem, writeBytes, State.linked]
  | cons b bs ih =>
    obtain ⟨m, rfl⟩ : ∃ j, m = j + 1 := ⟨m - 1, by omega⟩
    rw [recvMany, recv1_byte b (byteReads bs ++ .negative k :: r) s (by simpa [byteReads] using h)]
    simp only [Res.bind]
    rw [ih (i + 1) m _ (by cases dst <;> rfl) (by simpa using hm)]
    cases dst <;> simp [State.store, storedMem, writeBytes, State.linked, readEvents, Nat.add_assoc]

/-! Requests of the engine. -/

theorem sendOp_full (data : Bytes) (s : State) (w : List WriteAns) (hs : s.session = .opened) (h0 : data ≠ [])
    (hl : data.length ≤ Config.maxFrame) (hw : s.writes = .full :: .full :: w) :
    sendOp 0x11 data s = .ok () (s.sent (frameEvents 0x11 data) w) := by
  have hn : data.length ≠ 0 := by simpa using h0
  rw [sendOp, if_neg (by simp [hs]), if_neg (by simp), if_neg (by omega), if_neg hn, txWrite_full _ s _ hw]
  simp only [Res.bind]
  rw [txWrite_full data _ w rfl]
  simp [frameEvents, h0]

theorem xferOp_delayed (x : XferBuf) (n : Nat) (ds : List (Nat × Byte)) (s : State) (w : List WriteAns)
    (r : List ReadAns) (hs : s.session = .opened) (h0 : n ≠ 0) (hl : n ≤ Config.maxFrame) (hb : n ≤ xferLen x)
    (hw : s.writes = .full :: .full :: w) (hr : s.reads = delayedReads ds ++ r) (hn : ds.length = n)
    (hj : ∀ d ∈ ds, PollsFit s.opts d.1) :
    xferOp 0x31 x n s =
      .ok (ds.map Prod.snd)
        { s.moved (wrote (byteHeader 0x31 n) :: wrote (xferBytes x n s.mem) :: delayedEvents ds) w r with
          mem := storedMem s.mem (xferDst x) 0 (ds.map Prod.snd) } := by
  subst hn
  rw [xferOp, if_neg (by simp [hs]), if_neg (by simp), if_neg (by omega), if_neg (by omega), if_neg h0,
    txWrite_full _ s _ hw]
  simp only [Res.bind]
  rw [txWrite_full _ _ w rfl]
  simp only
  rw [recvMany_delayed (xferDst x) ds 0 r _ (by simpa using hr) (by exact hj)]
  simp [State.linked]

theorem xferOp_full (x : XferBuf) (n : Nat) (bs : Bytes) (s : State) (w : List WriteAns) (r : List ReadAns)
    (hs : s.session = .opened) (h0 : n ≠ 0) (hl : n ≤ Config.maxFrame) (hb : n ≤ xferLen x)
    (hw : s.writes = .full :: .full :: w) (hr : s.reads = byteReads bs ++ r) (hn : bs.length = n) :
    xferOp 0x31 x n s =
      .ok bs { s.moved (wrote (byteHeader 0x31 n) :: wrote (xferBytes x n s.mem) :: readEvents bs) w r with
        mem := storedMem s.mem (xferDst x) 0 bs } := by
  have := xferOp_delayed x n (bs.map fun b => (0, b)) s w r hs h0 hl hb hw (by rw [(delayed_none bs).1, hr])
    (by simpa using hn) (by simpa using fun _ _ => PollsFit.zero s.opts)
  simpa [(delayed_none bs).2, Function.comp_def] using this

theorem setGpioOp_full (v : Byte) (s : State) (w : List WriteAns) (hs : s.session = .opened)
    (hc : csOrderOk v s = true) (hw : s.writes = .full :: w) :
    setGpioOp v Config.gpioDirMask s =
      .ok () { s.sent [gsetEvent v] w with gpioVal := some v, gpioDir := some Config.gpioDirMask } := by
  rw [setGpioOp, if_neg (by simp [hs]), if_neg (by simp), if_neg (by simp [hc]), txWrite_full _ s _ hw]
  rfl

/-- A transaction around a body whose end is known (R124). -/
theorem txn_full {α : Type} (body : State → Res α) (s u : State) (a : α) (w w' : List WriteAns)
    (hs : s.session = .opened) (hc : csOrderOk Config.gpioSelect s = true) (hw : s.writes = .full :: w)
    (hb : body { s.sent [gsetEvent Config.gpioSelect] w with
      gpioVal := some Config.gpioSelect, gpioDir := some Config.gpioDirMask } = .ok a u)
    (hu : u.session = .opened) (hw' : u.writes = .full :: w') :
    txn body s = .ok a { u.sent [gsetEvent Config.gpioDeselect] w' with
      gpioVal := some Config.gpioDeselect, gpioDir := some Config.gpioDirMask } := by
  rw [txn, if_neg (by simp [hs]), selectOp, setGpioOp_full _ s w hs hc hw]
  simp only [Res.bind]
  rw [hb]
  simp only
  rw [deselectOp, setGpioOp_full _ u w' hu (csOrderOk_deselect u) hw']

theorem bsendAll_full (bs : Bytes) (s : State) (w : List WriteAns) (hs : s.session = .opened) (h0 : bs ≠ [])
    (hl : bs.length ≤ Config.maxFrame) (hw : s.writes = .full :: .full :: w) :
    bsendAll bs s = .ok () (s.sent (frameEvents 0x11 bs) w) := by
  rw [bsendAll, bsendOp, if_neg (by simp [hs]), if_neg (by omega), List.take_length, sendOp_full bs s w hs h0 hl hw]

theorem bxferAll_full (bs rs : Bytes) (s : State) (w : List WriteAns) (r : List ReadAns) (hs : s.session = .opened)
    (h0 : bs ≠ []) (hl : bs.length ≤ Config.maxFrame) (hw : s.writes = .full :: .full :: w)
    (hr : s.reads = byteReads rs ++ r) (hn : rs.length = bs.length) :
    bxferAll bs s = .ok rs (s.moved (frameEvents 0x31 bs ++ readEvents rs) w r) := by
  rw [bxferAll, bxferOp, xferOp_full (.own bs) bs.length rs s w r hs (by simpa using h0) hl (le_refl _) hw hr hn]
  simp [xferBytes, frameEvents, h0, State.linked, xferDst, storedMem]

/-- A write-only transaction (R89). -/
theorem sendTxn_full (bs : Bytes) (s : State) (w : List WriteAns) (hs : s.session = .opened)
    (hc : csOrderOk Config.gpioSelect s = true) (h0 : bs ≠ []) (hl : bs.length ≤ Config.maxFrame)
    (hw : s.writes = List.replicate 4 .full ++ w) :
    txn (bsendAll bs) s = .ok () { s.sent (sendTxn bs) w with
      gpioVal := some Config.gpioDeselect, gpioDir := some Config.gpioDirMask } := by
  have hw4 : s.writes = .full :: .full :: .full :: .full :: w := by simpa [List.replicate_succ] using hw
  rw [txn_full (bsendAll bs) s _ () _ w hs hc hw4 (bsendAll_full bs _ (.full :: w) hs h0 hl rfl) hs rfl]
  simp [State.linked, sendTxn, txnEvents]

/-- The status transaction (R129). -/
theorem sStatus_full (b0 sr : Byte) (s : State) (w : List WriteAns) (r : List ReadAns) (hs : s.session = .opened)
    (hc : csOrderOk Config.gpioSelect s = true) (hw : s.writes = List.replicate 4 .full ++ w)
    (hr : s.reads = .byte b0 :: .byte sr :: r) :
    sStatus s = .ok sr { s.moved (statusTxn b0 sr) w r with
      gpioVal := some Config.gpioDeselect, gpioDir := some Config.gpioDirMask, status := some sr } := by
  have hw4 : s.writes = .full :: .full :: .full :: .full :: w := by simpa [List.replicate_succ] using hw
  rw [sStatus, txn_full (bxferAll [0x05, 0x00]) s _ [b0, sr] _ w hs hc hw4
    (bxferAll_full [0x05, 0x00] [b0, sr] _ (.full :: w) r hs (by simp) (by decide) rfl (by simpa [byteReads] using hr)
      rfl) hs rfl]
  simp [Res.bind, State.linked, statusTxn, txnEvents]

/-- `RDSR` (R129). -/
theorem rdsrOp_full (b0 sr : Byte) (s : State) (w : List WriteAns) (r : List ReadAns) (hs : s.session = .opened)
    (hc : csOrderOk Config.gpioSelect s = true) (hw : s.writes = List.replicate 4 .full ++ w)
    (hr : s.reads = .byte b0 :: .byte sr :: r) :
    rdsrOp s = .ok sr { s.moved (rdsrEvents b0 sr) w r with
      gpioVal := some Config.gpioDeselect, gpioDir := some Config.gpioDirMask, status := some sr
      reports := s.reports ++ pollReports s.opts.verbose [(b0, sr)] } := by
  rw [rdsrOp, sStatus_full b0 sr s w r hs hc hw hr]
  cases hv : s.opts.verbose <;>
    simp [Res.bind, reportStatus, State.report, State.log, State.linked, rdsrEvents, hv, pollReports]

/-! The drain. -/

/-- `DRAIN` of held bytes, which ends at the first read that gives none (R112). -/
theorem drainLoop_bytes (ds : Bytes) (fuel : Nat) (a : ReadAns) (r : List ReadAns) (s : State)
    (h : s.reads = byteReads ds ++ a :: r) (ha : ∀ b, a ≠ .byte b) (hf : ds.length < fuel) :
    drainLoop fuel s = .ok () { s.moved (readEvents ds ++ [.read a]) s.writes r with
      warnlog := s.warnlog ++ ds.map .unexpectedRx } := by
  induction ds generalizing fuel s with
  | nil =>
    obtain ⟨fuel, rfl⟩ : ∃ k, fuel = k + 1 := ⟨fuel - 1, by omega⟩
    rw [drainLoop, rxRead1_held s a r (by simpa [byteReads] using h)]
    cases a with
    | byte b => exact absurd rfl (ha b)
    | negative n => simp [readEvents, State.linked]
    | empty => simp [readEvents, State.linked]
  | cons d ds ih =>
    obtain ⟨fuel, rfl⟩ : ∃ k, fuel = k + 1 := ⟨fuel - 1, by omega⟩
    rw [drainLoop, rxRead1_held s (.byte d) (byteReads ds ++ a :: r) (by simpa [byteReads] using h)]
    simp only
    rw [ih fuel _ rfl (by simpa using hf)]
    simp [State.warn, State.linked, readEvents]

/-- `DRAIN` that meets only bytes runs out of fuel: the hang of R175. -/
theorem drainLoop_hung (ds : Bytes) (r : List ReadAns) (s : State) (h : s.reads = byteReads ds ++ r) :
    drainLoop ds.length s = .hung := by
  induction ds generalizing s with
  | nil => rfl
  | cons d ds ih =>
    rw [List.length_cons, drainLoop, rxRead1_held s (.byte d) (byteReads ds ++ r) (by simpa [byteReads] using h)]
    exact ih _ rfl

/-! The busy wait. -/

/-- What fits is within the turns followed, and its last poll but one does not reach the bound (R137). -/
theorem BusyFit.spec {o : Options} {n : Nat} (h : BusyFit o n) (hn : 0 < n) :
    n ≤ turns o.busyBound o.fuel ∧ boundReached o.busyBound (0 + (n - 1)) = false := by
  unfold BusyFit at h
  cases hb : o.busyBound with
  | none => rw [hb] at h; exact ⟨h, rfl⟩
  | some b =>
    rw [hb] at h
    simp only [turns, boundReached, decide_eq_false_iff_not, Nat.succ_eq_add_one] at h ⊢
    omega

/-- `DBCNT` after a poll that read `sr` and did not end the wait (R137). -/
def runOf (sr : Byte) : Fin 3 := if statusBusy sr then 0 else 1

theorem debounce_runOf (p q : Byte) (s : State) (hd : s.dbcnt = runOf p) :
    debounce q s = { s with dbcnt := if statusBusy q then 0 else if statusBusy p then 1 else 2 } := by
  unfold debounce
  rw [hd]
  unfold runOf
  cases statusBusy q <;> cases statusBusy p <;> rfl

theorem pollReports_cons (v : Bool) (p : Byte × Byte) (ps : List (Byte × Byte)) :
    pollReports v (p :: ps) = pollReports v [p] ++ pollReports v ps := by
  cases v <;> simp [pollReports]

theorem polled_cons (s : State) (p : Byte × Byte) (ps : List (Byte × Byte)) (sr : Byte) (d d' : Fin 3)
    (w w' : List WriteAns) (r r' : List ReadAns) :
    (s.polled [p] p.2 d' w' r').polled ps sr d w r = s.polled (p :: ps) sr d w r := by
  rw [State.polled, State.polled, State.polled, pollReports_cons s.opts.verbose p ps]
  simp [State.linked, pollEvents]

/-- One poll of the loop. -/
theorem waitLoop_poll (fuel polls : Nat) (p : Byte × Byte) (prev : Byte) (s : State) (w : List WriteAns)
    (r : List ReadAns) (hs : s.session = .opened) (hc : csOrderOk Config.gpioSelect s = true)
    (hw : s.writes = List.replicate 4 .full ++ w) (hr : s.reads = .byte p.1 :: .byte p.2 :: r)
    (hd : s.dbcnt = runOf prev) :
    waitLoop (fuel + 1) polls s =
      if statusBusy prev = false ∧ statusBusy p.2 = false then .ok () (s.polled [p] p.2 2 w r)
      else if boundReached s.opts.busyBound (polls + 1) then .raised .busyBound (s.polled [p] p.2 (runOf p.2) w r)
      else waitLoop fuel (polls + 1) (s.polled [p] p.2 (runOf p.2) w r) := by
  have h1 := rdsrOp_full p.1 p.2 s w r hs hc hw hr
  generalize hu : ({ s.moved (rdsrEvents p.1 p.2) w r with
    gpioVal := some Config.gpioDeselect, gpioDir := some Config.gpioDirMask, status := some p.2
    reports := s.reports ++ pollReports s.opts.verbose [(p.1, p.2)] } : State) = u at h1
  have hdu : u.dbcnt = runOf prev := by rw [← hu]; exact hd
  rw [waitLoop, h1]
  simp only [Res.bind]
  rw [debounce_runOf prev p.2 u hdu]
  subst hu
  unfold runOf State.polled
  cases statusBusy p.2 <;> cases statusBusy prev <;>
    simp [State.linked, pollEvents, Config.debounceN]

/-- A wait that ends with the first quiet pair (R137, R138). -/
theorem waitLoop_quiet (ps : List (Byte × Byte)) (fuel polls : Nat) (prev : Byte × Byte) (s : State)
    (w : List WriteAns) (r : List ReadAns) (hs : s.session = .opened) (hc : csOrderOk Config.gpioSelect s = true)
    (hw : s.writes = List.replicate (4 * ps.length) .full ++ w) (hr : s.reads = pollReads ps ++ r)
    (hd : s.dbcnt = runOf prev.2) (hf : ps.length ≤ fuel) (hq : hasQuietPair (prev :: ps) = true)
    (hn : hasQuietPair (prev :: ps.dropLast) = false)
    (hb : boundReached s.opts.busyBound (polls + (ps.length - 1)) = false) (sr : Byte)
    (hl : ps.getLast?.map Prod.snd = some sr) :
    waitLoop fuel polls s = .ok () (s.polled ps sr 2 w r) := by
  induction ps generalizing fuel polls prev s with
  | nil => simp [hasQuietPair] at hq
  | cons p ps ih =>
    obtain ⟨fuel, rfl⟩ : ∃ k, fuel = k + 1 := ⟨fuel - 1, by simp only [List.length_cons] at hf; omega⟩
    have hw' : s.writes = List.replicate 4 .full ++ (List.replicate (4 * ps.length) .full ++ w) := by
      rw [hw, ← List.append_assoc, List.replicate_append_replicate]
      simp only [List.length_cons]
      rw [Nat.mul_succ, Nat.add_comm]
    rw [waitLoop_poll fuel polls p prev.2 s _ (pollReads ps ++ r) hs hc hw' (by simpa [pollReads] using hr) hd]
    cases ps with
    | nil =>
      rw [if_pos (by simpa [hasQuietPair] using hq)]
      simp only [List.getLast?_singleton, Option.map_some, Option.some.injEq] at hl
      subst hl
      simp [pollReads]
    | cons q qs =>
      have hn1 : ¬(statusBusy prev.2 = false ∧ statusBusy p.2 = false) := by
        simp only [List.dropLast_cons_cons, hasQuietPair, Bool.or_eq_false_iff] at hn
        rintro ⟨h1, h2⟩
        simp [h1, h2] at hn
      have hq1 : hasQuietPair (p :: q :: qs) = true := by
        rw [hasQuietPair] at hq
        rcases Bool.or_eq_true_iff.mp hq with h | h
        · exact absurd (by simpa using h) hn1
        · exact h
      have hn2 : hasQuietPair (p :: (q :: qs).dropLast) = false := by
        rw [List.dropLast_cons_cons, hasQuietPair] at hn
        exact (Bool.or_eq_false_iff.mp hn).2
      have hb1 : boundReached s.opts.busyBound (polls + 1) = false := boundReached_mono hb (by simp)
      rw [if_neg hn1, if_neg (by rw [hb1]; decide)]
      rw [ih fuel (polls + 1) p (s.polled [p] p.2 (runOf p.2) (List.replicate (4 * (q :: qs).length) WriteAns.full ++ w)
        (pollReads (q :: qs) ++ r)) hs (csOrderOk_select_10 _ rfl) rfl rfl rfl (by simpa using hf) hq1 hn2
        (by simpa [State.polled, Nat.add_assoc, Nat.add_comm 1] using hb) (by simpa using hl), polled_cons]

/-- A wait whose polls show no quiet pair: it reaches its bound (R137), or runs out of fuel (R139, R175). -/
theorem waitLoop_noisy (ps : List (Byte × Byte)) (fuel polls : Nat) (prev : Byte × Byte) (s : State)
    (w : List WriteAns) (r : List ReadAns) (hs : s.session = .opened) (hc : csOrderOk Config.gpioSelect s = true)
    (hw : s.writes = List.replicate (4 * ps.length) .full ++ w) (hr : s.reads = pollReads ps ++ r)
    (hd : s.dbcnt = runOf prev.2) (h0 : ps ≠ []) (hf : ps.length ≤ fuel) (hq : hasQuietPair (prev :: ps) = false)
    (hb : ps.length = 1 ∨ boundReached s.opts.busyBound (polls + (ps.length - 1)) = false) (sr : Byte)
    (hl : ps.getLast?.map Prod.snd = some sr) :
    waitLoop fuel polls s =
      if boundReached s.opts.busyBound (polls + ps.length) then .raised .busyBound (s.polled ps sr (runOf sr) w r)
      else waitLoop (fuel - ps.length) (polls + ps.length) (s.polled ps sr (runOf sr) w r) := by
  induction ps generalizing fuel polls prev s with
  | nil => exact absurd rfl h0
  | cons p ps ih =>
    obtain ⟨fuel, rfl⟩ : ∃ k, fuel = k + 1 := ⟨fuel - 1, by simp only [List.length_cons] at hf; omega⟩
    have hw' : s.writes = List.replicate 4 .full ++ (List.replicate (4 * ps.length) .full ++ w) := by
      rw [hw, ← List.append_assoc, List.replicate_append_replicate]
      simp only [List.length_cons]
      rw [Nat.mul_succ, Nat.add_comm]
    have hn1 : ¬(statusBusy prev.2 = false ∧ statusBusy p.2 = false) := by
      rw [hasQuietPair] at hq
      rintro ⟨h1, h2⟩
      simp [h1, h2] at hq
    rw [waitLoop_poll fuel polls p prev.2 s _ (pollReads ps ++ r) hs hc hw' (by simpa [pollReads] using hr) hd,
      if_neg hn1]
    cases ps with
    | nil =>
      simp only [List.getLast?_singleton, Option.map_some, Option.some.injEq] at hl
      subst hl
      simp [pollReads]
    | cons q qs =>
      have hq2 : hasQuietPair (p :: q :: qs) = false := by
        rw [hasQuietPair] at hq
        exact (Bool.or_eq_false_iff.mp hq).2
      have hb2 : boundReached s.opts.busyBound (polls + (qs.length + 1)) = false := by simpa using hb
      have hb1 : boundReached s.opts.busyBound (polls + 1) = false := boundReached_mono hb2 (by omega)
      rw [if_neg (by rw [hb1]; decide)]
      rw [ih fuel (polls + 1) p (s.polled [p] p.2 (runOf p.2) (List.replicate (4 * (q :: qs).length) WriteAns.full ++ w)
        (pollReads (q :: qs) ++ r)) hs (csOrderOk_select_10 _ rfl) rfl rfl rfl (by simp) (by simpa using hf) hq2
        (.inr (by simpa [State.polled, Nat.add_assoc, Nat.add_comm 1] using hb2)) (by simpa using hl), polled_cons]
      have e1 : polls + 1 + (q :: qs).length = polls + (p :: q :: qs).length := by simp only [List.length_cons]; omega
      have e2 : fuel - (q :: qs).length = fuel + 1 - (p :: q :: qs).length := by simp only [List.length_cons]; omega
      rw [e1, e2]
      rfl

end Sys2Proof.Machine
end

