-- ==== Sys2Proof/Laws/Exec.lean ====
section
/-! SUPPORT. One lemma per request: it is refused with nothing done, or it runs with the footprint of its row of
10_state.md R40; then the one lemma about `exec` that joins them. -/

namespace Sys2Proof.Machine

/-- A request: a fault that leaves the state as it was (60_exceptions.md R171), or a run. -/
def Legal {α : Type} (W : List Reg) (rng : Nat × Nat) (s : State) (r : Res α)
    (Q : α → State → List LinkEvent → Prop) (Z : Cause → State → Prop) : Prop :=
  (∃ f, r = .faulted f s) ∨ Run W rng s r Q Z

theorem Legal.faulted {α : Type} {W : List Reg} {rng : Nat × Nat} {s : State} {f : FCode}
    {Q : α → State → List LinkEvent → Prop} {Z : Cause → State → Prop} : Legal W rng s (.faulted f s) Q Z :=
  .inl ⟨f, rfl⟩

/-- A check that faults with nothing done. -/
theorem Legal.check {α : Type} {W : List Reg} {rng : Nat × Nat} {s : State} {f : FCode} {r : Res α} {p : Prop}
    [Decidable p] {Q : α → State → List LinkEvent → Prop} {Z : Cause → State → Prop} (h : ¬p → Legal W rng s r Q Z) :
    Legal W rng s (if p then .faulted f s else r) Q Z := by
  split
  · exact .faulted
  · exact h ‹_›

theorem Legal.bind {α β : Type} {W : List Reg} {rng : Nat × Nat} {s : State} {r : Res α} {k : α → State → Res β}
    {Q : α → State → List LinkEvent → Prop} {Q' : β → State → List LinkEvent → Prop} {Z : Cause → State → Prop}
    (h : Legal W rng s r Q Z)
    (hk : ∀ a t evs, Foot W rng s t evs → Q a t evs →
      Run W rng t (k a t) (fun b u evs' => Q' b u (evs ++ evs')) Z) :
    Legal W rng s (r.bind k) Q' Z := by
  rcases h with ⟨f, rfl⟩ | h
  · exact .faulted
  · exact .inr (h.bind hk)

theorem Legal.mono {α : Type} {W W' : List Reg} {rng rng' : Nat × Nat} {s : State} {r : Res α}
    {Q Q' : α → State → List LinkEvent → Prop} {Z Z' : Cause → State → Prop} (h : Legal W rng s r Q Z)
    (hW : ∀ r, r ∈ W → r ∈ W')
    (hr : ∀ a, rng.1 ≤ a ∧ a < rng.1 + rng.2 → rng'.1 ≤ a ∧ a < rng'.1 + rng'.2)
    (hQ : ∀ a t evs, Foot W rng s t evs → Q a t evs → Q' a t evs)
    (hZ : ∀ c t evs, Foot W rng s t evs → Z c t → Z' c t) : Legal W' rng' s r Q' Z' :=
  h.imp id fun h => h.mono hW hr hQ hZ

/-- A request whose fault is excluded runs. -/
theorem Legal.run {α : Type} {W : List Reg} {rng : Nat × Nat} {s : State} {r : Res α}
    {Q : α → State → List LinkEvent → Prop} {Z : Cause → State → Prop} (h : Legal W rng s r Q Z)
    (hf : ∀ f, r ≠ .faulted f s) : Run W rng s r Q Z := h.resolve_left fun ⟨f, e⟩ => hf f e

/-- A silent update in front of a run. -/
theorem Run.pre {α : Type} {W : List Reg} {rng : Nat × Nat} {s s' : State} {r : Res α}
    {Q : α → State → List LinkEvent → Prop} {Z : Cause → State → Prop} (h : Foot W rng s s' [])
    (hr : Run W rng s' r Q Z) : Run W rng s r Q Z := by
  unfold Run at hr ⊢
  cases r with
  | ok a t => obtain ⟨e, hf, hq⟩ := hr; exact ⟨e, by simpa using h.trans hf, hq⟩
  | raised c t => obtain ⟨e, x, hf, hcl, he, hz⟩ := hr; exact ⟨e, x, by simpa using h.trans hf, hcl, he, hz⟩
  | faulted f t => exact hr
  | hung => trivial

/-- What a done request of the engine or the multiplexer guarantees: whole frames. -/
def Frames {α : Type} : α → State → List LinkEvent → Prop := fun _ _ evs => Framed evs

/-- What a done flash request guarantees: whole frames, and the bus inactive with the board in reset (R124). -/
def FlashDone {α : Type} : α → State → List LinkEvent → Prop := fun _ t evs => Framed evs ∧ t.gpioVal = some 0x10

/-- What a done `RDSR` guarantees besides: it ends with its wait (R129). -/
def PollDone {α : Type} : α → State → List LinkEvent → Prop := fun a t evs =>
  FlashDone a t evs ∧ ∃ e, evs = e ++ [.idle .status]

/-- No claim about a raise. -/
def AnyRaise : Cause → State → Prop := fun _ _ => True

/-! The engine. -/

theorem sendOp_legal (op : Byte) (data : Bytes) (s : State) :
    Legal [] (0, 0) s (sendOp op data s) Frames AnyRaise := by
  by_cases hs : s.session = .opened
  · by_cases ho : op = 0x11
    · by_cases hl : data.length ≤ Config.maxFrame
      · subst ho
        exact .inr ((sendOp_run [] _ data s hs hl).weaken (fun _ _ _ _ h => h.2.1) (fun _ _ _ _ _ => trivial))
      · unfold sendOp
        rw [if_neg (by simp [hs]), if_neg (by simp [ho]), if_pos (by omega)]
        exact .faulted
    · unfold sendOp
      rw [if_neg (by simp [hs]), if_pos ho]
      exact .faulted
  · unfold sendOp
    rw [if_pos hs]
    exact .faulted

theorem xferOp_legal (rng : Nat × Nat) (op : Byte) (x : XferBuf) (n : Nat) (s : State)
    (hr : ∀ base, xferDst x = some base → rng.1 ≤ base ∧ base + n ≤ rng.1 + rng.2) :
    Legal [] rng s (xferOp op x n s) Frames AnyRaise := by
  by_cases h : s.session = .opened ∧ op = 0x31 ∧ n ≤ Config.maxFrame ∧ n ≤ xferLen x
  · obtain ⟨hs, rfl, hl, hb⟩ := h
    exact .inr ((xferOp_run [] rng x n s hs hl hb hr).weaken (fun _ _ _ _ h => h.2) (fun _ _ _ _ _ => trivial))
  · unfold xferOp
    refine .check fun hs => .check fun ho => .check fun hl => .check fun hb => ?_
    exact absurd ⟨by simpa using hs, by simpa using ho, by omega, by omega⟩ h

/-- The footprint of one written register: the shape of the updates below. -/
theorem bitsIn_foot (rng : Nat × Nat) (u : State) (b : Byte) :
    Foot [.bitsIn] rng u { u with bitsIn := some b } [] := by
  refine update_foot rfl ?_ rfl List.prefix_rfl List.prefix_rfl rfl rfl ?_
  · intro r hr ht
    cases r <;> first | rfl | exact absurd rfl ht | exact absurd (by decide) hr
  · exact fun hm => ⟨hm.memory, hm.chipSelect, hm.direction, hm.captured, hm.divisor, hm.extended⟩

theorem gpioInLo_foot (rng : Nat × Nat) (u : State) (b : Byte) :
    Foot [.gpioInLo] rng u { u with gpioInLo := some b } [] := by
  refine update_foot rfl ?_ rfl List.prefix_rfl List.prefix_rfl rfl rfl ?_
  · intro r hr ht
    cases r <;> first | rfl | exact absurd rfl ht | exact absurd (by decide) hr
  · exact fun hm => ⟨hm.memory, hm.chipSelect, hm.direction, hm.captured, hm.divisor, hm.extended⟩

theorem gpioInHi_foot (rng : Nat × Nat) (u : State) (b : Byte) :
    Foot [.gpioInHi] rng u { u with gpioInHi := some b } [] := by
  refine update_foot rfl ?_ rfl List.prefix_rfl List.prefix_rfl rfl rfl ?_
  · intro r hr ht
    cases r <;> first | rfl | exact absurd rfl ht | exact absurd (by decide) hr
  · exact fun hm => ⟨hm.memory, hm.chipSelect, hm.direction, hm.captured, hm.divisor, hm.extended⟩

theorem divisor_foot (W : List Reg) (hW : Reg.slow ∈ W ∧ Reg.clkdiv ∈ W) (rng : Nat × Nat) (u : State) (d : BitVec 16)
    (hd : d = Config.divFull ∨ d = Config.divSlow) :
    Foot W rng u { u with slow := some (decide (d = Config.divSlow)), clkdiv := some d } [] := by
  refine update_foot rfl ?_ rfl List.prefix_rfl List.prefix_rfl rfl rfl ?_
  · intro r hr ht
    cases r <;> first | rfl | exact absurd rfl ht | exact absurd hW.1 hr | exact absurd hW.2 hr
  · intro hm
    refine ⟨hm.memory, hm.chipSelect, hm.direction, hm.captured, ?_, hm.extended⟩
    rcases hd with rfl | rfl <;> rfl

/-- One write and one received byte: the shape of `XBITS`, `RDGPIOL` and `RDGPIOH`. -/
theorem writeRead_run (W : List Reg) (rng : Nat × Nat) (bs : Bytes) (f : Instr) (s : State) (upd : Byte → State → State)
    (hf : emittable f) (he : encode f = some bs) (hr : responseBytes f = some 1)
    (hu : ∀ b u, Foot W rng u (upd b u) []) :
    Run W rng s ((txWrite bs s).bind fun _ t => (recv1 t).bind fun b u => .ok b (upd b u)) Frames AnyRaise := by
  refine ((txWrite_run W rng bs s).weaken (fun _ _ _ _ h => h) (fun _ _ _ _ _ => trivial)).bind ?_
  rintro - t evs - ⟨rfl, -⟩
  refine ((recv1_run W rng t).weaken (fun _ _ _ _ h => h) (fun _ _ _ _ _ => trivial)).bind ?_
  rintro b u evs - ⟨-, h1, h2⟩
  refine Run.pure (hu b u) (Framed.one hf ?_ ?_)
  · simp [he, h1]
  · simp [hr, h2]

theorem xbitsOp_legal (v : Byte) (k : Nat) (s : State) : Legal [.bitsIn] (0, 0) s (xbitsOp v k s) Frames AnyRaise := by
  unfold xbitsOp
  refine .check fun _ => .check fun hk => ?_
  split
  · exact .inr ⟨[], Foot.refl _ _ s, Clean.nil, Framed.nil⟩
  · rename_i h0
    refine .inr (writeRead_run _ _ _ (.lfBits (BitVec.ofNat 3 (k - 1)) v) s (fun b u => { u with bitsIn := some b })
      ⟨rfl, rfl, by intro d h; cases h⟩ ?_ rfl (fun b u => bitsIn_foot _ u b))
    simp only [encode]
    rw [show (BitVec.ofNat 3 (k - 1)).toNat = k - 1 by
      simp only [Config.bitsMax] at hk
      rw [BitVec.toNat_ofNat]
      omega]

theorem rdGpioLOp_legal (s : State) : Legal [.gpioInLo] (0, 0) s (rdGpioLOp s) Frames AnyRaise := by
  unfold rdGpioLOp
  exact .check fun _ => .inr (writeRead_run _ _ _ .lfGrdLow s (fun b u => { u with gpioInLo := some b })
    ⟨rfl, rfl, by intro d h; cases h⟩ rfl rfl (fun b u => gpioInLo_foot _ u b))

theorem rdGpioHOp_legal (s : State) : Legal [.gpioInHi] (0, 0) s (rdGpioHOp s) Frames AnyRaise := by
  unfold rdGpioHOp
  exact .check fun _ => .inr (writeRead_run _ _ _ .lfGrdHigh s (fun b u => { u with gpioInHi := some b })
    ⟨rfl, rfl, by intro d h; cases h⟩ rfl rfl (fun b u => gpioInHi_foot _ u b))

theorem clk5Op_run (W : List Reg) (rng : Nat × Nat) (s : State) : Run W rng s (clk5Op s)
    (fun _ t evs => LinkedTo s t evs ∧ Framed evs) AnyRaise := by
  refine (txWrite_run W rng _ s).weaken ?_ (fun _ _ _ _ _ => trivial)
  rintro - t evs - ⟨rfl, h⟩
  exact ⟨h, Framed.one (f := .lfClk5) ⟨rfl, rfl, by intro d h; cases h⟩ (by simp [encode]) (by simp [responseBytes])⟩

theorem divOp_run (W : List Reg) (hW : Reg.slow ∈ W ∧ Reg.clkdiv ∈ W) (rng : Nat × Nat) (d : BitVec 16) (s : State)
    (hd : d = Config.divFull ∨ d = Config.divSlow) : Run W rng s (divOp d s)
    (fun _ t evs => (∃ u, LinkedTo s u evs ∧ t = { u with slow := some (decide (d = Config.divSlow)), clkdiv := some d })
      ∧ Framed evs) AnyRaise := by
  refine ((txWrite_run W rng _ s).weaken (fun _ _ _ _ h => h) (fun _ _ _ _ _ => trivial)).bind ?_
  rintro - t evs - ⟨rfl, h⟩
  refine Run.pure (divisor_foot W hW rng t d hd) ⟨⟨t, by simpa using h, rfl⟩, ?_⟩
  exact Framed.one (f := .lfDiv d) ⟨rfl, rfl, by intro d' h; cases h; exact hd⟩ (by simp [encode])
    (by simp [responseBytes])

theorem clk5_legal (s : State) : Legal [] (0, 0) s (inSession clk5Op s) Frames AnyRaise := by
  unfold inSession
  exact .check fun _ => .inr ((clk5Op_run _ _ s).weaken (fun _ _ _ _ h => h.2) (fun _ _ _ _ _ => trivial))

theorem div_legal (d : BitVec 16) (s : State) (hd : s.session = .opened → d = Config.divFull ∨ d = Config.divSlow) :
    Legal [.slow, .clkdiv] (0, 0) s (inSession (divOp d) s) Frames AnyRaise := by
  unfold inSession
  exact .check fun h => .inr ((divOp_run _ (by decide) _ d s (hd (by simpa using h))).weaken (fun _ _ _ _ h => h.2)
    (fun _ _ _ _ _ => trivial))

theorem setGpioOp_legal (v d : Byte) (s : State) : Legal gpioRegs (0, 0) s (setGpioOp v d s) Frames AnyRaise := by
  by_cases h : s.session = .opened ∧ d = Config.gpioDirMask ∧ csOrderOk v s = true
  · obtain ⟨hs, rfl, hc⟩ := h
    exact .inr ((setGpioOp_run _ v s hs hc).weaken (fun _ _ _ _ h => h.2.2) (fun _ _ _ _ _ => trivial))
  · unfold setGpioOp
    refine .check fun hs => .check fun hd => .check fun hc => ?_
    exact absurd ⟨by simpa using hs, by simpa using hd, by simpa using hc⟩ h

/-- What a done `OPEN` leaves in the session's registers. -/
def Opened {α : Type} : α → State → List LinkEvent → Prop := fun _ t evs =>
  Framed evs ∧ t.session = .opened ∧ t.handle = true ∧ t.latCaptured = true ∧ t.err = none

theorem openOp_run (slow : Bool) (s : State) (hs : s.session = .closed) :
    Run openRegs (0, 0) s (openOp slow s) Opened AnyRaise := by
  unfold openOp
  rw [if_neg (by simp [hs])]
  refine Run.pre (s' := { s with err := none }) ?_ ?_
  · refine update_foot rfl ?_ rfl List.prefix_rfl List.prefix_rfl rfl rfl ?_
    · intro r hr ht
      cases r <;> first | rfl | exact absurd rfl ht | exact absurd (by decide) hr
    · exact fun hm => ⟨hm.memory, hm.chipSelect, hm.direction, hm.captured, hm.divisor, hm.extended⟩
  refine ((ctrl_run _ _ _ _).weaken (fun _ _ _ _ h => h) (fun _ _ _ _ _ => trivial)).bind ?_
  rintro - s1 e1 - ⟨l1, f1, -⟩
  refine Run.pre (s' := { s1 with handle := true }) ?_ ?_
  · refine update_foot rfl ?_ rfl List.prefix_rfl List.prefix_rfl rfl rfl ?_
    · intro r hr ht
      cases r <;> first | rfl | exact absurd rfl ht | exact absurd (by decide) hr
    · exact fun hm => ⟨hm.memory, hm.chipSelect, hm.direction, fun h => ⟨rfl, (hm.captured h).2⟩, hm.divisor,
        hm.extended⟩
  refine ((ctrl_run _ _ _ _).weaken (fun _ _ _ _ h => h) (fun _ _ _ _ _ => trivial)).bind ?_
  rintro - s2 e2 - ⟨l2, f2, -⟩
  refine ((ctrl_run _ _ _ _).weaken (fun _ _ _ _ h => h) (fun _ _ _ _ _ => trivial)).bind ?_
  rintro - s3 e3 - ⟨l3, f3, -⟩
  refine ((ctrl_run _ _ _ _).weaken (fun _ _ _ _ h => h) (fun _ _ _ _ _ => trivial)).bind ?_
  rintro v s4 e4 - ⟨l4, f4, -⟩
  have h4 : s4.handle = true ∧ s4.err = none := by
    obtain ⟨_, _, _, _, rfl⟩ := l1
    obtain ⟨_, _, _, _, rfl⟩ := l2
    obtain ⟨_, _, _, _, rfl⟩ := l3
    obtain ⟨_, _, _, _, rfl⟩ := l4
    exact ⟨rfl, rfl⟩
  refine Run.pre (s' := { s4 with latSaved := some v, latCaptured := true }) ?_ ?_
  · refine update_foot rfl ?_ rfl List.prefix_rfl List.prefix_rfl rfl rfl ?_
    · intro r hr ht
      cases r <;> first | rfl | exact absurd rfl ht | exact absurd (by decide) hr
    · exact fun hm => ⟨hm.memory, hm.chipSelect, hm.direction, fun _ => ⟨h4.1, v, rfl⟩, hm.divisor, hm.extended⟩
  refine ((ctrl_run _ _ _ _).weaken (fun _ _ _ _ h => h) (fun _ _ _ _ _ => trivial)).bind ?_
  rintro - s5 e5 - ⟨l5, f5, -⟩
  refine ((ctrl_run _ _ _ _).weaken (fun _ _ _ _ h => h) (fun _ _ _ _ _ => trivial)).bind ?_
  rintro - s6 e6 - ⟨l6, f6, -⟩
  refine Run.pre (s' := { s6 with gpioDir := some Config.gpioDirAllOut, gpioVal := none }) ?_ ?_
  · refine update_foot rfl ?_ rfl List.prefix_rfl List.prefix_rfl rfl rfl ?_
    · intro r hr ht
      cases r <;> first | rfl | exact absurd rfl ht | exact absurd (by decide) hr
    · exact fun hm => ⟨hm.memory, by simp, by simp, hm.captured, hm.divisor, hm.extended⟩
  refine (clk5Op_run _ _ _).bind ?_
  rintro - s7 e7 - ⟨l7, f7⟩
  refine (divOp_run _ (by decide) _ _ _ (by cases slow <;> decide)).bind ?_
  rintro - s8 e8 - ⟨⟨u, l8, rfl⟩, f8⟩
  have h8 : u.handle = true ∧ u.latCaptured = true ∧ u.err = none := by
    obtain ⟨_, _, _, _, rfl⟩ := l5
    obtain ⟨_, _, _, _, rfl⟩ := l6
    obtain ⟨_, _, _, _, rfl⟩ := l7
    obtain ⟨_, _, _, _, rfl⟩ := l8
    exact ⟨h4.1, rfl, h4.2⟩
  refine Run.pure (update_foot rfl ?_ rfl List.prefix_rfl List.prefix_rfl rfl rfl ?_) ⟨?_, rfl, h8⟩
  · intro r hr ht
    cases r <;> first | rfl | exact absurd rfl ht | exact absurd (by decide) hr
  · exact fun hm => ⟨hm.memory, hm.chipSelect, hm.direction, hm.captured, hm.divisor, by simp⟩
  · exact f1.append (f2.append (f3.append (f4.append (f5.append (f6.append (f7.append (f8.append Framed.nil)))))))

theorem openOp_legal (slow : Bool) (s : State) : Legal openRegs (0, 0) s (openOp slow s) Opened AnyRaise := by
  by_cases hs : s.session = .closed
  · exact .inr (openOp_run slow s hs)
  · unfold openOp
    rw [if_pos hs]
    exact .faulted

/-- What a done `CLOSE` leaves in the session's registers. -/
def Closed {α : Type} : α → State → List LinkEvent → Prop := fun _ t evs =>
  Framed evs ∧ t.session = .closed ∧ t.handle = false ∧ t.latCaptured = false

theorem closed_foot (W : List Reg) (hW : Reg.session ∈ W ∧ Reg.handle ∈ W ∧ Reg.latCaptured ∈ W) (rng : Nat × Nat)
    (u : State) : Foot W rng u { u with handle := false, latCaptured := false, session := .closed } [] := by
  refine update_foot rfl ?_ rfl List.prefix_rfl List.prefix_rfl rfl rfl ?_
  · intro r hr ht
    cases r <;> first | rfl | exact absurd rfl ht | exact absurd hW.1 hr | exact absurd hW.2.1 hr | exact absurd hW.2.2 hr
  · exact fun hm => ⟨hm.memory, hm.chipSelect, hm.direction, by simp, hm.divisor, hm.extended⟩

theorem closeOp_legal (s : State) : Legal [.session, .handle, .latCaptured] (0, 0) s (closeOp s) Closed AnyRaise := by
  unfold closeOp
  refine .check fun _ => .check fun _ => ?_
  split
  · exact .faulted
  · refine .inr ?_
    refine ((ctrl_run _ _ _ _).weaken (fun _ _ _ _ h => h) (fun _ _ _ _ _ => trivial)).bind ?_
    rintro - s1 e1 - ⟨-, f1, -⟩
    refine ((ctrl_run _ _ _ _).weaken (fun _ _ _ _ h => h) (fun _ _ _ _ _ => trivial)).bind ?_
    rintro - s2 e2 - ⟨-, f2, -⟩
    refine ((ctrl_run _ _ _ _).weaken (fun _ _ _ _ h => h) (fun _ _ _ _ _ => trivial)).bind ?_
    rintro - s3 e3 - ⟨-, f3, -⟩
    exact Run.pure (closed_foot _ (by decide) _ s3) ⟨f1.append (f2.append (f3.append Framed.nil)), rfl, rfl, rfl⟩

/-! The abort. -/

/-- The footprint of a warning. -/
theorem warn_foot (W : List Reg) (hW : Reg.warnlog ∈ W) (rng : Nat × Nat) (u : State) (w : Warning) :
    Foot W rng u (u.warn w) [] := by
  refine update_foot rfl ?_ rfl (List.prefix_append _ _) List.prefix_rfl rfl rfl ?_
  · intro r hr ht
    cases r <;> first | rfl | exact absurd rfl ht | exact absurd hW hr
  · exact fun hm => ⟨hm.memory, hm.chipSelect, hm.direction, hm.captured, hm.divisor, hm.extended⟩

/-- The drain only reads and warns, and never raises. -/
theorem drainLoop_ends (W : List Reg) (hW : Reg.warnlog ∈ W) (fuel : Nat) (s : State) :
    (drainLoop fuel s).Sat
      (fun _ t => ∃ evs, Foot W (0, 0) s t evs ∧ txBytes evs = [] ∧ t.handle = s.handle) (fun _ _ => False)
      (fun _ _ => False) := by
  induction fuel generalizing s with
  | zero => trivial
  | succ fuel ih =>
    have hl := rxRead1_linked s
    rw [drainLoop]
    revert hl
    generalize rxRead1 s = x
    obtain ⟨a, t⟩ := x
    intro hl
    have hh : t.handle = s.handle := by
      obtain ⟨w, r, c, d, e⟩ := hl
      rw [show t = s.linked _ w r c d from e]
      rfl
    cases a with
    | byte b =>
      have := ih (t.warn (.unexpectedRx b))
      unfold Res.Sat at this ⊢
      simp only
      cases hx : drainLoop fuel (t.warn (.unexpectedRx b)) with
      | ok a u =>
        rw [hx] at this
        obtain ⟨evs, hf, h1, h2⟩ := this
        have hw := (hl.foot W (0, 0)).trans (warn_foot W hW (0, 0) t (.unexpectedRx b))
        exact ⟨_, hw.trans hf, by rw [txBytes_append, h1]; rfl, h2.trans hh⟩
      | raised c u => rw [hx] at this; exact this
      | faulted f u => rw [hx] at this; exact this
      | hung => trivial
    | negative n => exact ⟨_, hl.foot W _, rfl, hh⟩
    | empty => exact ⟨_, hl.foot W _, rfl, hh⟩

/-- `ABORT` is never refused and never raises (R111, R178). It ends closed; it writes nothing to the link. -/
theorem abortOp_ends (s : State) : (abortOp s).Sat
    (fun _ t => ∃ evs, Foot [.session, .handle, .latCaptured, .warnlog] (0, 0) s t evs ∧ txBytes evs = [] ∧
      t.session = .closed ∧ t.latCaptured = false ∧ t.handle = false)
    (fun _ _ => False) (fun _ _ => False) := by
  unfold abortOp
  split
  · have hd := drainLoop_ends [.session, .handle, .latCaptured, .warnlog] (by decide) (turns none s.opts.fuel) s
    unfold drain
    cases hx : drainLoop (turns none s.opts.fuel) s with
    | raised c t => rw [hx] at hd; exact hd
    | faulted f t => rw [hx] at hd; exact hd
    | hung => trivial
    | ok a t =>
      rw [hx] at hd
      obtain ⟨evs, hf, h1, -⟩ := hd
      have hr : ∃ e, LinkedTo t (restoreLatency t) e ∧ txBytes e = [] := by
        unfold restoreLatency
        split
        · exact ⟨_, ctrlCall_linked _ _, rfl⟩
        · exact ⟨_, LinkedTo.refl t, rfl⟩
        · exact ⟨_, LinkedTo.refl t, rfl⟩
      obtain ⟨e, hl, he⟩ := hr
      have hl2 := hl.trans (ctrlCall_linked .release (restoreLatency t))
      have hf2 := (hl2.foot [.session, .handle, .latCaptured, .warnlog] (0, 0)).trans (closed_foot _ (by decide) _ _)
      refine ⟨_, hf.trans hf2, ?_, rfl, rfl, rfl⟩
      simp only [List.append_nil, txBytes_append, h1, he, List.nil_append]
      rfl
  · rename_i hh
    have : ({ s with latCaptured := false, session := .closed } : State)
        = { s with handle := false, latCaptured := false, session := .closed } := by
      have : s.handle = false := by simpa using hh
      rw [← this]
    rw [this]
    exact ⟨_, closed_foot _ (by decide) _ s, rfl, rfl, rfl, rfl⟩

/-! The flash requests. -/

theorem flash_any {α : Type} {rng : Nat × Nat} {s : State} {r : Res α} {Q : α → State → List LinkEvent → Prop}
    {W : List Reg} (h : Run W rng s r Q AnyRaise) : Run W rng s r Q (fun _ _ => True) :=
  h.weaken (fun _ _ _ _ h => h) (fun _ _ _ _ _ => trivial)

/-- A transaction around a body that cannot fault (R124). -/
theorem txn_legal {α : Type} (rng : Nat × Nat) (body : State → Res α) (s : State) (Q : α → Prop)
    (hb : ∀ t, t.session = .opened → Run [] rng t (body t) (fun a _ evs => Framed evs ∧ Q a) (fun _ _ => True)) :
    Legal gpioRegs rng s (txn body s) (fun a t evs => FlashDone a t evs ∧ Q a) lineAfterRaise := by
  by_cases hs : s.session = .opened
  · by_cases hc : csOrderOk Config.gpioSelect s = true
    · exact .inr ((txn_run rng body s Q hs hc hb).weaken (fun _ _ _ _ h => ⟨⟨h.1, h.2.1⟩, h.2.2⟩)
        (fun _ _ _ _ h => h))
    · rw [txn_fault body s hs (by simpa using hc)]
      exact .faulted
  · unfold txn
    rw [if_pos hs]
    exact .faulted

theorem bsendTxn_legal (rng : Nat × Nat) (bs : Bytes) (hl : bs.length ≤ Config.maxFrame) (s : State) :
    Legal gpioRegs rng s (txn (bsendAll bs) s) FlashDone lineAfterRaise := by
  refine (txn_legal rng _ s (fun _ => True) ?_).mono (fun _ => id) (fun _ => id) (fun _ _ _ _ h => h.1)
    (fun _ _ _ _ h => h)
  intro t ht
  exact (bsendAll_run [] rng bs t ht hl).weaken (fun _ _ _ _ h => ⟨h.2.1, trivial⟩) (fun _ _ _ _ _ => trivial)

theorem sOp_legal (op : Byte) (s : State) : Legal gpioRegs (0, 0) s (sOp op s) FlashDone lineAfterRaise :=
  bsendTxn_legal (0, 0) [op] (by simp [Config.maxFrame]) s

theorem sReset_legal (s : State) : Legal gpioRegs (0, 0) s (sReset s) FlashDone lineAfterRaise :=
  bsendTxn_legal (0, 0) _ (by decide) s

theorem sWriteStatus_legal (s : State) : Legal gpioRegs (0, 0) s (sWriteStatus s) FlashDone lineAfterRaise :=
  bsendTxn_legal (0, 0) _ (by decide) s

theorem sBlockErase_legal (a : FlashAddr) (s : State) :
    Legal gpioRegs (0, 0) s (sBlockErase a s) FlashDone lineAfterRaise :=
  bsendTxn_legal (0, 0) (spiHeader 0xD8 a) (by simp [spiHeader, addrBytes, Config.maxFrame]) s

theorem power_foot (rng : Nat × Nat) (u : State) (p : FlashPwr) :
    Foot (.flashPwr :: gpioRegs) rng u { u with flashPwr := p } [] := by
  refine update_foot rfl ?_ rfl List.prefix_rfl List.prefix_rfl rfl rfl ?_
  · intro r hr ht
    cases r <;> first | rfl | exact absurd rfl ht | exact absurd (by decide) hr
  · exact fun hm => ⟨hm.memory, hm.chipSelect, hm.direction, hm.captured, hm.divisor, hm.extended⟩

theorem status_foot (W : List Reg) (hW : Reg.status ∈ W) (rng : Nat × Nat) (u : State) (b : Byte) :
    Foot W rng u { u with status := some b } [] := by
  refine update_foot rfl ?_ rfl List.prefix_rfl List.prefix_rfl rfl rfl ?_
  · intro r hr ht
    cases r <;> first | rfl | exact absurd rfl ht | exact absurd hW hr
  · exact fun hm => ⟨hm.memory, hm.chipSelect, hm.direction, hm.captured, hm.divisor, hm.extended⟩

/-- A flash request followed by an update of registers that are not the GPIO value. -/
theorem Legal.update {α β : Type} {W W' : List Reg} {rng : Nat × Nat} {s : State} {r : Res α} {g : α → β}
    {upd : α → State → State} (h : Legal W rng s r FlashDone lineAfterRaise) (hW : ∀ r, r ∈ W → r ∈ W')
    (hu : ∀ a u, Foot W' rng u (upd a u) []) (hg : ∀ a u, (upd a u).gpioVal = u.gpioVal) :
    Legal W' rng s (r.bind fun a t => .ok (g a) (upd a t)) FlashDone lineAfterRaise := by
  refine (h.mono (W' := W') hW (fun _ => id) (fun _ _ _ _ h => h) (fun _ _ _ _ h => h)).bind ?_
  rintro a t evs - ⟨h1, h2⟩
  exact Run.pure (hu a t) ⟨by simpa using h1, (hg a t).trans h2⟩

theorem powerUpOp_legal (s : State) : Legal (.flashPwr :: gpioRegs) (0, 0) s (powerUpOp s) FlashDone lineAfterRaise :=
  (sOp_legal 0xAB s).update (by decide) (fun _ u => power_foot _ u .up) (fun _ _ => rfl)

theorem powerDownOp_legal (s : State) :
    Legal (.flashPwr :: gpioRegs) (0, 0) s (powerDownOp s) FlashDone lineAfterRaise :=
  (sOp_legal 0xB9 s).update (by decide) (fun _ u => power_foot _ u .down) (fun _ _ => rfl)

theorem sStatus_legal (s : State) : Legal (.status :: gpioRegs) (0, 0) s (sStatus s) FlashDone lineAfterRaise := by
  refine Legal.update (W := gpioRegs) (W' := .status :: gpioRegs) (g := fun bs => bs.getD 1 0)
    (upd := fun bs t => { t with status := some (bs.getD 1 0) })
    ((txn_legal (0, 0) (bxferAll [0x05, 0x00]) s (fun _ => True) ?_).mono (fun _ => id) (fun _ => id)
      (fun _ _ _ _ h => h.1) (fun _ _ _ _ h => h)) (by decide) (fun bs u => status_foot _ (by decide) _ u _)
    (fun _ _ => rfl)
  intro t ht
  exact (bxferAll_run [] (0, 0) _ t ht (by decide)).weaken (fun _ _ _ _ h => ⟨h.2, trivial⟩) (fun _ _ _ _ _ => trivial)

theorem log_foot (W : List Reg) (rng : Nat × Nat) (u : State) (e : LinkEvent) : Foot W rng u (u.log e) [e] :=
  ((LinkedTo.refl u).log e).foot W rng

theorem reportStatus_foot (W : List Reg) (rng : Nat × Nat) (sr : Byte) (u : State) :
    Foot W rng u (reportStatus sr u) [] := by
  unfold reportStatus
  split
  · refine update_foot rfl ?_ rfl List.prefix_rfl (List.prefix_append _ _) rfl rfl ?_
    · intro r hr ht
      cases r <;> rfl
    · exact fun hm => ⟨hm.memory, hm.chipSelect, hm.direction, hm.captured, hm.divisor, hm.extended⟩
  · exact Foot.refl _ _ _

@[simp] theorem reportStatus_gpioVal (sr : Byte) (u : State) : (reportStatus sr u).gpioVal = u.gpioVal := by
  unfold reportStatus
  split <;> rfl

theorem rdsrOp_legal (s : State) : Legal (.status :: gpioRegs) (0, 0) s (rdsrOp s) PollDone lineAfterRaise := by
  refine (sStatus_legal s).bind ?_
  rintro sr t evs - ⟨h1, h2⟩
  have hf := (reportStatus_foot (.status :: gpioRegs) (0, 0) sr t).trans
    (log_foot (.status :: gpioRegs) (0, 0) (reportStatus sr t) (.idle .status))
  refine Run.pure hf ⟨⟨h1.append (Framed.silent rfl rfl), ?_⟩, evs, rfl⟩
  simpa using h2

/-- A flash request after a flash request: it is admitted. -/
theorem txn_admitted {α : Type} (rng : Nat × Nat) (body : State → Res α) (s : State) (Q : α → Prop)
    (hs : s.session = .opened) (hg : s.gpioVal = some 0x10)
    (hb : ∀ t, t.session = .opened → Run [] rng t (body t) (fun a _ evs => Framed evs ∧ Q a) (fun _ _ => True)) :
    Run gpioRegs rng s (txn body s) (fun a t evs => FlashDone a t evs ∧ Q a) lineAfterRaise :=
  (txn_run rng body s Q hs (csOrderOk_select_10 s hg) hb).weaken (fun _ _ _ _ h => ⟨⟨h.1, h.2.1⟩, h.2.2⟩)
    (fun _ _ _ _ h => h)

/-- `RDSR` runs where a flash request is admitted. -/
theorem rdsrOp_run (s : State) (hs : s.session = .opened) (hc : csOrderOk Config.gpioSelect s = true) :
    Run (.status :: gpioRegs) (0, 0) s (rdsrOp s) PollDone lineAfterRaise := by
  refine (rdsrOp_legal s).run ?_
  intro f hf
  have h : Run gpioRegs (0, 0) s (txn (bxferAll [0x05, 0x00]) s) (fun a t evs => Framed evs ∧ t.gpioVal = some 0x10 ∧
      True) lineAfterRaise := txn_run (0, 0) _ s (fun _ => True) hs hc fun t ht =>
    (bxferAll_run [] (0, 0) _ t ht (by decide)).weaken (fun _ _ _ _ h => ⟨h.2, trivial⟩) (fun _ _ _ _ _ => trivial)
  unfold rdsrOp sStatus at hf
  unfold Run at h
  cases ht : txn (bxferAll [0x05, 0x00]) s with
  | ok a t => rw [ht] at hf; cases hf
  | raised c t => rw [ht] at hf; cases hf
  | faulted g t => rw [ht] at h; exact h
  | hung => rw [ht] at hf; cases hf

theorem sOp_run (op : Byte) (s : State) (hs : s.session = .opened) (hc : csOrderOk Config.gpioSelect s = true) :
    Run gpioRegs (0, 0) s (sOp op s) FlashDone lineAfterRaise :=
  (txn_run (0, 0) _ s (fun _ => True) hs hc fun t ht =>
    (bsendAll_run [] (0, 0) [op] t ht (by simp [Config.maxFrame])).weaken (fun _ _ _ _ h => ⟨h.2.1, trivial⟩)
      (fun _ _ _ _ _ => trivial)).weaken (fun _ _ _ _ h => ⟨h.1, h.2.1⟩) (fun _ _ _ _ h => h)

theorem wrenOp_legal (s : State) : Legal (.status :: gpioRegs) (0, 0) s (wrenOp s) FlashDone lineAfterRaise := by
  unfold wrenOp
  refine .check fun hs => ?_
  replace hs : s.session = .opened := by simpa using hs
  by_cases hc : csOrderOk Config.gpioSelect s = true
  · right
    have first : Run (.status :: gpioRegs) (0, 0) s (rdsrIfVerbose s)
        (fun _ t evs => Framed evs ∧ csOrderOk Config.gpioSelect t = true) lineAfterRaise := by
      unfold rdsrIfVerbose
      split
      · refine (rdsrOp_run s hs hc).bind ?_
        rintro a t evs - ⟨⟨h1, h2⟩, -⟩
        exact Run.pure (Foot.refl _ _ _) ⟨by simpa using h1, csOrderOk_select_10 t h2⟩
      · exact Run.pure (Foot.refl _ _ _) ⟨Framed.nil, hc⟩
    refine first.bind ?_
    rintro - t e1 hf1 ⟨f1, hc1⟩
    have ht := (hf1.session (by decide)).trans hs
    refine ((sOp_run 0x06 t ht hc1).mono (W' := .status :: gpioRegs) (by decide) (fun _ => id) (fun _ _ _ _ h => h)
      (fun _ _ _ _ h => h)).bind ?_
    rintro - u e2 hf2 ⟨f2, hg2⟩
    have hu := (hf2.session (by decide)).trans ht
    unfold rdsrIfVerbose
    split
    · refine (rdsrOp_run u hu (csOrderOk_select_10 u hg2)).bind ?_
      rintro a v e3 - ⟨⟨f3, hg3⟩, -⟩
      exact Run.pure (Foot.refl _ _ _) ⟨f1.append (f2.append (f3.append Framed.nil)), hg3⟩
    · exact Run.pure (Foot.refl _ _ _) ⟨f1.append (f2.append Framed.nil), hg2⟩
  · have hc' : csOrderOk Config.gpioSelect s = false := by simpa using hc
    left
    refine ⟨.csOrder, ?_⟩
    unfold rdsrIfVerbose
    split
    · unfold rdsrOp sStatus
      rw [txn_fault _ s hs hc']
      rfl
    · simp only [Res.bind]
      unfold sOp
      rw [txn_fault _ s hs hc']

theorem be64kOp_legal (addr : Nat) (s : State) : Legal gpioRegs (0, 0) s (be64kOp addr s) FlashDone lineAfterRaise := by
  unfold be64kOp
  exact .check fun _ => .check fun _ => sBlockErase_legal _ s

theorem ppOp_legal (addr : Nat) (data : Bytes) (n : Nat) (s : State) :
    Legal gpioRegs (0, 0) s (ppOp addr data n s) FlashDone lineAfterRaise := by
  unfold ppOp
  refine .check fun _ => .check fun _ => .check fun hb => .check fun hp => ?_
  refine (txn_legal (0, 0) _ s (fun _ => True) ?_).mono (fun _ => id) (fun _ => id) (fun _ _ _ _ h => h.1)
    (fun _ _ _ _ h => h)
  intro t ht
  have hn : n ≤ Config.maxFrame := by
    simp only [crossesPage, decide_eq_true_eq, Config.pageSize] at hp
    simp only [Config.maxFrame]
    omega
  refine ((bsendAll_run [] (0, 0) (spiHeader 0x02 (addrOf addr)) t ht (by simp [spiHeader, addrBytes, Config.maxFrame])).weaken (fun _ _ _ _ h => h)
    (fun _ _ _ _ _ => trivial)).bind ?_
  rintro - u e1 hf ⟨-, f1, -⟩
  refine (bsendOp_run [] (0, 0) data n u ((hf.session (by simp)).trans ht) (by omega) hn).weaken ?_
    (fun _ _ _ _ _ => trivial)
  rintro - v e2 - ⟨-, f2, -⟩
  exact ⟨f1.append f2, trivial⟩

theorem preZero_foot (rng : Nat × Nat) (x : XferBuf) (n : Nat) (u : State)
    (hr : ∀ base, xferDst x = some base → rng.1 ≤ base ∧ base + n ≤ rng.1 + rng.2) :
    Foot [] rng u (preZero x n u) [] := by
  cases x with
  | own l => exact Foot.refl _ _ _
  | host b =>
    have := hr b.base rfl
    refine ⟨(List.append_nil _).symm, ?_, ?_, List.prefix_rfl, List.prefix_rfl, rfl, rfl, ?_⟩
    · intro r _ _; cases r <;> rfl
    · intro a ha
      refine memRead_writeBytes_outside _ _ _ _ ?_
      simp only [zeros, List.length_replicate]
      omega
    · intro hm
      exact ⟨wf_writeBytes _ _ _ hm.memory, hm.chipSelect, hm.direction, hm.captured, hm.divisor, hm.extended⟩

theorem readOp_legal (rng : Nat × Nat) (addr : Nat) (x : XferBuf) (n : Nat) (s : State)
    (hr : ∀ base, xferDst x = some base → rng.1 ≤ base ∧ base + n ≤ rng.1 + rng.2) :
    Legal gpioRegs rng s (readOp addr x n s) FlashDone lineAfterRaise := by
  unfold readOp
  refine .check fun _ => .check fun _ => .check fun hl => .check fun hb => ?_
  refine (txn_legal rng _ s (fun _ => True) ?_).mono (fun _ => id) (fun _ => id) (fun _ _ _ _ h => h.1)
    (fun _ _ _ _ h => h)
  intro t ht
  refine ((bsendAll_run [] rng (spiHeader 0x03 (addrOf addr)) t ht (by simp [spiHeader, addrBytes, Config.maxFrame])).weaken (fun _ _ _ _ h => h)
    (fun _ _ _ _ _ => trivial)).bind ?_
  rintro - u e1 hf ⟨-, f1, -⟩
  have hz := preZero_foot rng x n u hr
  have hu := (hz.session (by simp)).trans ((hf.session (by simp)).trans ht)
  refine Run.pre hz ((xferOp_run [] rng x n (preZero x n u) hu (by omega) (by omega) hr).weaken ?_
    (fun _ _ _ _ _ => trivial))
  rintro bs v e2 - ⟨-, f2⟩
  exact ⟨f1.append f2, trivial⟩

/-! Polls and identification. -/

theorem debounce_foot (W : List Reg) (hW : Reg.dbcnt ∈ W) (rng : Nat × Nat) (sr : Byte) (u : State) :
    Foot W rng u (debounce sr u) [] := by
  refine update_foot rfl ?_ rfl List.prefix_rfl List.prefix_rfl rfl rfl ?_
  · intro r hr ht
    cases r <;> first | rfl | exact absurd rfl ht | exact absurd hW hr
  · exact fun hm => ⟨hm.memory, hm.chipSelect, hm.direction, hm.captured, hm.divisor, hm.extended⟩

/-- The loop of `WAITBUSY` (R137). -/
theorem waitLoop_polls (fuel polls : Nat) (s : State) (hs : s.session = .opened)
    (hc : csOrderOk Config.gpioSelect s = true) :
    Run (.status :: .dbcnt :: gpioRegs) (0, 0) s (waitLoop fuel polls s) PollDone lineAfterRaise := by
  induction fuel generalizing polls s with
  | zero => trivial
  | succ fuel ih =>
    rw [waitLoop]
    have hr := (rdsrOp_run s hs hc).mono (W' := .status :: .dbcnt :: gpioRegs) (by decide) (fun _ => id)
      (fun _ _ _ _ h => h) (fun _ _ _ _ h => h)
    cases hx : rdsrOp s with
    | ok sr t =>
      rw [hx] at hr
      obtain ⟨evs, hf, hcl, ⟨h1, hg⟩, e', rfl⟩ := hr
      have hd := hf.trans (debounce_foot (.status :: .dbcnt :: gpioRegs) (by decide) (0, 0) sr t)
      rw [List.append_nil] at hd
      simp only [Res.bind]
      split
      · exact ⟨_, hd, hcl, ⟨h1, hg⟩, e', rfl⟩
      · split
        · exact ⟨e', .idle .status, hd, fun e he => hcl e (List.mem_append_left _ he), rfl, fun h => absurd rfl h⟩
        · have hs' := (hd.session (by decide)).trans hs
          have := ih (polls + 1) (debounce sr t) hs' (csOrderOk_select_10 _ hg)
          have h0 : Run (.status :: .dbcnt :: gpioRegs) (0, 0) s (.ok () (debounce sr t))
              (fun _ u e => e = e' ++ [.idle .status] ∧ u = debounce sr t) lineAfterRaise := ⟨_, hd, hcl, rfl, rfl⟩
          refine h0.bind (k := fun _ u => waitLoop fuel (polls + 1) u) ?_
          rintro - u e - ⟨rfl, rfl⟩
          refine this.weaken (fun _ v e2 _ h2 => ?_) (fun _ _ _ _ h => h)
          obtain ⟨h2, e, rfl⟩ := h2
          exact ⟨⟨h1.append h2.1, h2.2⟩, (e' ++ [.idle .status]) ++ e, by simp⟩
    | raised c t => rw [hx] at hr; exact hr
    | faulted f t => rw [hx] at hr; exact hr
    | hung => trivial

theorem waitLoop_run (fuel polls : Nat) (s : State) (hs : s.session = .opened)
    (hc : csOrderOk Config.gpioSelect s = true) :
    Run (.status :: .dbcnt :: gpioRegs) (0, 0) s (waitLoop fuel polls s) FlashDone lineAfterRaise :=
  (waitLoop_polls fuel polls s hs hc).weaken (fun _ _ _ _ h => h.1) (fun _ _ _ _ h => h)

/-- A wait that returns after polls without a quiet pair has made more polls (R138). -/
theorem waitLoop_noisy_done (ps : List (Byte × Byte)) (fuel polls : Nat) (prev : Byte × Byte) (s t : State)
    (w : List WriteAns) (r : List ReadAns) (hs : s.session = .opened) (hc : csOrderOk Config.gpioSelect s = true)
    (hw : s.writes = List.replicate (4 * ps.length) .full ++ w) (hr : s.reads = pollReads ps ++ r)
    (hd : s.dbcnt = runOf prev.2) (hq : hasQuietPair (prev :: ps) = false) (ht : waitLoop fuel polls s = .ok () t) :
    ∃ e, t.txlog = s.txlog ++ pollEvents ps ++ e ++ [.idle .status] := by
  induction ps generalizing fuel polls prev s with
  | nil =>
    have h := waitLoop_polls fuel polls s hs hc
    rw [ht] at h
    obtain ⟨_, hf, -, -, e, rfl⟩ := h
    exact ⟨e, by rw [hf.txlog]; simp [pollEvents]⟩
  | cons p ps ih =>
    cases fuel with
    | zero => cases ht
    | succ fuel =>
      have hw' : s.writes = List.replicate 4 .full ++ (List.replicate (4 * ps.length) .full ++ w) := by
        rw [hw, ← List.append_assoc, List.replicate_append_replicate, List.length_cons, Nat.mul_succ, Nat.add_comm]
      rw [hasQuietPair, Bool.or_eq_false_iff] at hq
      have hn : ¬(statusBusy prev.2 = false ∧ statusBusy p.2 = false) := by
        rintro ⟨h1, h2⟩
        simp [h1, h2] at hq
      rw [waitLoop_poll fuel polls p prev.2 s _ (pollReads ps ++ r) hs hc hw' (by simpa [pollReads] using hr) hd,
        if_neg hn] at ht
      split at ht
      · cases ht
      · obtain ⟨e, he⟩ := ih fuel (polls + 1) p (s.polled [p] p.2 (runOf p.2)
          (List.replicate (4 * ps.length) .full ++ w) (pollReads ps ++ r)) hs (csOrderOk_select_10 _ rfl) rfl rfl rfl hq.2 ht
        exact ⟨e, by rw [he]; simp [State.polled, State.linked, pollEvents]⟩

theorem flashChecks_legal {α : Type} {W : List Reg} {rng : Nat × Nat} (op : State → Res α) (s : State)
    {Q : α → State → List LinkEvent → Prop} {Z : Cause → State → Prop}
    (h : s.session = .opened → csOrderOk Config.gpioSelect s = true → Run W rng s (op s) Q Z) :
    Legal W rng s (flashChecks op s) Q Z := by
  unfold flashChecks
  exact .check fun hs => .check fun hc => .inr (h (by simpa using hs) (by simpa using hc))

theorem dbcnt_foot (W : List Reg) (hW : Reg.dbcnt ∈ W) (rng : Nat × Nat) (u : State) (n : Fin 3) :
    Foot W rng u { u with dbcnt := n } [] := by
  refine update_foot rfl ?_ rfl List.prefix_rfl List.prefix_rfl rfl rfl ?_
  · intro r hr ht
    cases r <;> first | rfl | exact absurd rfl ht | exact absurd hW hr
  · exact fun hm => ⟨hm.memory, hm.chipSelect, hm.direction, hm.captured, hm.divisor, hm.extended⟩

theorem waitBusyOp_legal (s : State) :
    Legal (.status :: .dbcnt :: gpioRegs) (0, 0) s (waitBusyOp s) FlashDone lineAfterRaise :=
  flashChecks_legal _ s fun hs hc => Run.pre (dbcnt_foot _ (by decide) _ s 0) (waitLoop_run _ 0 _ hs hc)

theorem disProtOp_legal (s : State) :
    Legal (.status :: .dbcnt :: .warnlog :: gpioRegs) (0, 0) s (disProtOp s) FlashDone lineAfterRaise := by
  rcases sWriteStatus_legal s with ⟨f, hf⟩ | hr
  · left
    exact ⟨f, by unfold disProtOp; rw [hf]; rfl⟩
  · right
    cases hx : sWriteStatus s with
    | raised c t =>
      rw [hx] at hr
      obtain ⟨evs, e, hf, hcl, he, hz⟩ := hr
      unfold disProtOp
      rw [hx]
      exact ⟨evs, e, hf.mono (by decide) (fun _ => id), hcl, he, hz⟩
    | faulted f t => rw [hx] at hr; exact hr.elim
    | hung => unfold disProtOp; rw [hx]; trivial
    | ok a t =>
      have hs : s.session = .opened := by
        by_contra hs
        unfold sWriteStatus txn at hx
        rw [if_pos hs] at hx
        cases hx
      unfold disProtOp
      refine (hr.mono (W' := .status :: .dbcnt :: .warnlog :: gpioRegs) (by decide) (fun _ => id) (fun _ _ _ _ h => h)
        (fun _ _ _ _ h => h)).bind ?_
      rintro - u e1 hf1 ⟨f1, hg1⟩
      have hu := (hf1.session (by decide)).trans hs
      have hc := csOrderOk_select_10 u hg1
      have hw : Run (.status :: .dbcnt :: gpioRegs) (0, 0) u (waitBusyOp u) FlashDone lineAfterRaise := by
        unfold waitBusyOp flashChecks
        rw [if_neg (by simp [hu]), if_neg (by rw [hc]; decide)]
        exact Run.pre (dbcnt_foot _ (by decide) _ u 0) (waitLoop_run _ 0 _ hu hc)
      refine (hw.mono (W' := .status :: .dbcnt :: .warnlog :: gpioRegs) (by decide) (fun _ => id) (fun _ _ _ _ h => h)
        (fun _ _ _ _ h => h)).bind ?_
      rintro - v e2 hf2 ⟨f2, hg2⟩
      have hv := (hf2.session (by decide)).trans hu
      refine ((rdsrOp_run v hv (csOrderOk_select_10 v hg2)).mono (W' := .status :: .dbcnt :: .warnlog :: gpioRegs)
        (by decide) (fun _ => id) (fun _ _ _ _ h => h) (fun _ _ _ _ h => h)).bind ?_
      rintro sr w e3 - ⟨⟨f3, hg3⟩, -⟩
      have hall := f1.append (f2.append (f3.append Framed.nil))
      split
      · exact Run.pure (Foot.refl _ _ _) ⟨hall, hg3⟩
      · exact Run.pure (warn_foot _ (by decide) _ w _) ⟨hall, hg3⟩

/-- The four JEDEC registers are written together with nothing else. -/
theorem jedec_foot (rng : Nat × Nat) (u : State) (m : Option Byte) (d : Option (Byte × Byte)) (l : Option Byte)
    (x : Option Bytes) (hx : ∀ e, x = some e →
      ∃ k, l = some k ∧ e.length = if k = 0x00 ∨ k = Config.jedecGlitch then 0 else k.toNat) :
    Foot jedecRegs rng u { u with jedecMfr := m, jedecDev := d, jedecExtlen := l, jedecExt := x } [] := by
  refine update_foot rfl ?_ rfl List.prefix_rfl List.prefix_rfl rfl rfl ?_
  · intro r hr ht
    cases r <;> first | rfl | exact absurd rfl ht | exact absurd (by decide) hr
  · exact fun hm => ⟨hm.memory, hm.chipSelect, hm.direction, hm.captured, hm.divisor, hx⟩

theorem Foot.jedecExt {W rng s t e} (h : Foot W rng s t e) (hr : Reg.jedecExt ∉ W) : t.jedecExt = s.jedecExt :=
  orUndefined_inj .bytes (by simp) _ _ (h.regs .jedecExt hr (by decide))

theorem Foot.jedecExtlen {W rng s t e} (h : Foot W rng s t e) (hr : Reg.jedecExtlen ∉ W) :
    t.jedecExtlen = s.jedecExtlen :=
  orUndefined_inj .byte (by simp) _ _ (h.regs .jedecExtlen hr (by decide))

/-- The extended read (R142 to R144): as many bytes as its length says, none for 0x00 and 0xFF. -/
theorem jedecExtOp_run (l : Byte) (s : State) (hs : s.session = .opened) (hl : s.jedecExtlen = some l) :
    Run jedecRegs (0, 0) s (jedecExtOp l s)
    (fun _ t evs => Framed evs ∧ t.gpioVal = s.gpioVal ∧ t.session = .opened) (fun _ t => t.gpioVal = s.gpioVal) := by
  unfold jedecExtOp
  split
  · rename_i h
    refine Run.pure ((warn_foot jedecRegs (by decide) _ s _).trans
      (jedec_foot _ _ (s.warn .jedecFF).jedecMfr (s.warn .jedecFF).jedecDev (s.warn .jedecFF).jedecExtlen (some [])
        ?_)) ⟨Framed.nil, rfl, hs⟩
    intro e he
    cases he
    exact ⟨l, hl, by simp [h]⟩
  · split
    · rename_i h
      refine Run.pure (jedec_foot _ s s.jedecMfr s.jedecDev s.jedecExtlen (some []) ?_) ⟨Framed.nil, rfl, hs⟩
      intro e he
      cases he
      exact ⟨l, hl, by simp [h]⟩
    · rename_i h1 h2
      have hle : (zeros l.toNat).length ≤ Config.maxFrame := by
        have := l.isLt
        simp only [zeros, List.length_replicate, Config.maxFrame]
        omega
      have hb := bxferAll_run [] (0, 0) (zeros l.toNat) s hs hle
      cases hx : bxferAll (zeros l.toNat) s with
      | ok e t =>
        rw [hx] at hb
        obtain ⟨evs, hf, hcl, hn, hfr⟩ := hb
        have hj := jedec_foot (0, 0) t t.jedecMfr t.jedecDev t.jedecExtlen (some e) (by
          intro e' he
          cases he
          refine ⟨l, (hf.jedecExtlen (by simp)).trans hl, ?_⟩
          rw [if_neg (by simp only [not_or]; exact ⟨h2, h1⟩), hn]
          simp [zeros])
        refine ⟨evs, ?_, hcl, hfr, hf.gpioVal (by simp), (hf.session (by simp)).trans hs⟩
        simpa using (hf.mono (W' := jedecRegs) (by simp) (fun _ => id)).trans hj
      | raised c t =>
        rw [hx] at hb
        obtain ⟨evs, e, hf, hcl, he, -⟩ := hb
        exact ⟨evs, e, hf.mono (by simp) (fun _ => id), hcl, he, hf.gpioVal (by simp)⟩
      | faulted f t => rw [hx] at hb; exact hb.elim
      | hung => trivial

theorem rdIdOp_legal (s : State) : Legal jedecRegs (0, 0) s (rdIdOp s) FlashDone lineAfterRaise := by
  refine flashChecks_legal _ s fun hs hc => ?_
  refine Run.pre (jedec_foot _ s none none none none (by simp)) ?_
  refine ((setGpioOp_run (0, 0) Config.gpioSelect (clearJedec s) hs hc).mono (W' := jedecRegs) (by decide)
    (fun _ => id) (Q' := fun _ t evs => Framed evs ∧ t.gpioVal = some 0x00 ∧ t.session = .opened ∧ t.jedecExt = none)
    (Z' := lineAfterRaise) (fun _ _ _ hf h => ⟨h.2.2, h.1, (hf.session (by decide)).trans hs, hf.jedecExt (by decide)⟩)
    (fun _ _ _ _ h _ => .inl h.2)).bind ?_
  rintro - s1 e1 - ⟨f1, hg1, hs1, hx1⟩
  refine ((bxferAll_run [] (0, 0) [0x9F, 0x00, 0x00, 0x00, 0x00] s1 hs1 (by decide)).mono (W' := jedecRegs)
    (by simp) (fun _ => id)
    (Q' := fun _ t evs => Framed evs ∧ t.gpioVal = some 0x00 ∧ t.session = .opened ∧ t.jedecExt = none)
    (Z' := lineAfterRaise) ?_ ?_).bind ?_
  · rintro a t evs hf ⟨-, h⟩
    exact ⟨h, (hf.gpioVal (by simp)).trans hg1, (hf.session (by simp)).trans hs1, (hf.jedecExt (by simp)).trans hx1⟩
  · intro c t evs hf _ _
    exact .inr ((hf.gpioVal (by simp)).trans hg1)
  rintro b s2 e2 - ⟨f2, hg2, hs2, hx2⟩
  refine Run.pre (s' := setJedec b s2) ?_ ?_
  · exact jedec_foot (0, 0) s2 (some (b.getD 1 0)) (some (b.getD 2 0, b.getD 3 0)) (some (b.getD 4 0)) s2.jedecExt
      (by simp [hx2])
  refine ((jedecExtOp_run (b.getD 4 0) (setJedec b s2) hs2 rfl).weaken (fun _ _ _ _ h => h)
    (Z' := lineAfterRaise) (fun _ _ _ _ h _ => .inr (h.trans hg2))).bind ?_
  rintro x s3 e3 - ⟨f3, -, hs3⟩
  refine ((setGpioOp_run (0, 0) Config.gpioDeselect s3 hs3 (csOrderOk_deselect s3)).mono (W' := jedecRegs) (by decide)
    (fun _ => id) (Z' := lineAfterRaise) (fun _ _ _ _ h => h) (fun _ _ _ _ h _ => .inl h.2)).bind ?_
  rintro - s4 e4 - ⟨hg4, -, f4⟩
  exact Run.pure (Foot.refl _ _ _) ⟨f1.append (f2.append (f3.append (f4.append Framed.nil))), hg4⟩

/-! The instructions. -/

/-- What a done instruction guarantees: all but `ABORT` clock out whole frames and read exactly their responses, the
flash layer ends with the bus inactive and the board in reset, and the session's registers are as the instruction
leaves them. -/
structure Finished (i : Instr) (s u : State) (evs : List LinkEvent) : Prop where
  frames : i ≠ .abortReq → Framed evs
  clean : i ≠ .abortReq → Clean evs
  silent : i = .abortReq → txBytes evs = []
  line : layerOf i = .flash → u.gpioVal = some 0x10
  inv : Inv s → Inv u

/-- Everything `exec` does with an instruction when it answers a next state: a fault that leaves the state as it was, a
raise that latches the error over the instruction's footprint, or a done instruction. -/
def Does (i : Instr) (s t : State) : Prop :=
  (∃ f, t = s.reply (.faulted f)) ∨
  (∃ c u evs e, Foot (writeSet i) (storeRange i) s u (evs ++ [e]) ∧ Clean evs ∧ failingEvent c e = true ∧
    (layerOf i = .flash → lineAfterRaise c u) ∧ i ≠ .abortReq ∧ t = raiseError c (layerOf i) u) ∨
  (∃ a u evs, Foot (writeSet i) (storeRange i) s u evs ∧ Finished i s u evs ∧ t = u.reply (.done a))

theorem conclude_does {α : Type} {i : Instr} {s t : State} {l : Layer} {ret : α → Result} {r : Res α}
    {Q : α → State → List LinkEvent → Prop} {Z : Cause → State → Prop}
    (h : Legal (writeSet i) (storeRange i) s r Q Z) (hn : conclude l ret r = .next t) (hl : l = layerOf i)
    (hZ : ∀ c u, Z c u → (layerOf i = .flash → lineAfterRaise c u) ∧ i ≠ .abortReq)
    (hQ : ∀ a u evs, Foot (writeSet i) (storeRange i) s u evs → Clean evs → Q a u evs → Finished i s u evs) :
    Does i s t := by
  subst hl
  rcases h with ⟨f, rfl⟩ | h
  · cases hn
    exact .inl ⟨f, rfl⟩
  · cases r with
    | ok a u =>
      cases hn
      obtain ⟨evs, hf, hcl, hq⟩ := h
      exact .inr (.inr ⟨_, u, evs, hf, hQ a u evs hf hcl hq, rfl⟩)
    | raised c u =>
      cases hn
      obtain ⟨evs, e, hf, hcl, he, hz⟩ := h
      exact .inr (.inl ⟨c, u, evs, e, hf, hcl, he, (hZ c u hz).1, (hZ c u hz).2, rfl⟩)
    | faulted f u => exact h.elim
    | hung => cases hn

/-- An engine or multiplexer instruction that keeps the session. -/
theorem conclude_frames {α : Type} {i : Instr} {s t : State} {l : Layer} {ret : α → Result} {r : Res α}
    (h : Legal (writeSet i) (storeRange i) s r Frames AnyRaise) (hn : conclude l ret r = .next t) (hl : l = layerOf i)
    (hf : layerOf i ≠ .flash) (ha : i ≠ .abortReq)
    (hW : Reg.session ∉ writeSet i ∧ Reg.handle ∉ writeSet i ∧ Reg.latCaptured ∉ writeSet i ∧ Reg.err ∉ writeSet i) :
    Does i s t :=
  conclude_does h hn hl (fun _ _ _ => ⟨fun h => absurd h hf, ha⟩) fun _ _ _ hfoot hcl hq =>
    ⟨fun _ => hq, fun _ => hcl, fun h => absurd h ha, fun h => absurd h hf, hfoot.inv hW.1 hW.2.1 hW.2.2.1 hW.2.2.2⟩

/-- A flash instruction. -/
theorem conclude_flash {α : Type} {i : Instr} {s t : State} {l : Layer} {ret : α → Result} {r : Res α}
    (h : Legal (writeSet i) (storeRange i) s r FlashDone lineAfterRaise) (hn : conclude l ret r = .next t)
    (hl : l = layerOf i) (ha : i ≠ .abortReq)
    (hW : Reg.session ∉ writeSet i ∧ Reg.handle ∉ writeSet i ∧ Reg.latCaptured ∉ writeSet i ∧ Reg.err ∉ writeSet i) :
    Does i s t :=
  conclude_does h hn hl (fun _ _ hz => ⟨fun _ => hz, ha⟩) fun _ _ _ hfoot hcl hq =>
    ⟨fun _ => hq.1, fun _ => hcl, fun h => absurd h ha, fun _ => hq.2, hfoot.inv hW.1 hW.2.1 hW.2.2.1 hW.2.2.2⟩

theorem Legal.widen {α : Type} {W : List Reg} {s : State} {r : Res α} {rng : Nat × Nat}
    {Q : α → State → List LinkEvent → Prop} {Z : Cause → State → Prop} (h : Legal W rng s r Q Z) (rng' : Nat × Nat)
    (hr : ∀ a, rng.1 ≤ a ∧ a < rng.1 + rng.2 → rng'.1 ≤ a ∧ a < rng'.1 + rng'.2) : Legal W rng' s r Q Z :=
  h.mono (fun _ => id) hr (fun _ _ _ _ h => h) (fun _ _ _ _ h => h)

theorem poll_flash {s : State} {r : Res Byte} {W : List Reg} {rng : Nat × Nat}
    (h : Legal W rng s r PollDone lineAfterRaise) : Legal W rng s r FlashDone lineAfterRaise :=
  h.mono (fun _ => id) (fun _ => id) (fun _ _ _ _ h => h.1) (fun _ _ _ _ h => h)

theorem own_range {l : Bytes} {rng : Nat × Nat} {n : Nat} :
    ∀ base, xferDst (.own l) = some base → rng.1 ≤ base ∧ base + n ≤ rng.1 + rng.2 := by
  intro base h; cases h

theorem host_range {b : Buf} {n : Nat} :
    ∀ base, xferDst (.host b) = some base → b.base ≤ base ∧ base + n ≤ b.base + n := by
  intro base h; cases h; exact ⟨le_refl _, le_refl _⟩

set_option linter.unusedSimpArgs false in
/-- Everything an instruction that answers a next state does. -/
theorem exec_does (i : Instr) (s t : State) (h : exec i s = .next t) : Does i s t := by
  cases i with
  | lfBo p => exact conclude_frames (i := .lfBo p) (sendOp_legal 0x11 p s) h rfl (by simp [layerOf]) (by simp) (by simp [writeSet, gpioRegs, jedecRegs])
  | lfBx p =>
    exact conclude_frames (i := .lfBx p) (xferOp_legal (0, 0) 0x31 (.own p) p.length s own_range) h rfl (by simp [layerOf])
      (by simp) (by simp [writeSet, gpioRegs, jedecRegs])
  | lfBits K v =>
    exact conclude_frames (i := .lfBits K v) (xbitsOp_legal v _ s) h rfl (by simp [layerOf]) (by simp) (by simp [writeSet, gpioRegs, jedecRegs])
  | lfGset v => exact conclude_frames (i := .lfGset v) (setGpioOp_legal v _ s) h rfl (by simp [layerOf]) (by simp) (by simp [writeSet, gpioRegs, jedecRegs])
  | lfGrdLow => exact conclude_frames (i := .lfGrdLow) (rdGpioLOp_legal s) h rfl (by simp [layerOf]) (by simp) (by simp [writeSet, gpioRegs, jedecRegs])
  | lfGrdHigh => exact conclude_frames (i := .lfGrdHigh) (rdGpioHOp_legal s) h rfl (by simp [layerOf]) (by simp) (by simp [writeSet, gpioRegs, jedecRegs])
  | lfClk5 => exact conclude_frames (i := .lfClk5) (clk5_legal s) h rfl (by simp [layerOf]) (by simp) (by simp [writeSet, gpioRegs, jedecRegs])
  | lfDiv d =>
    change execLfDiv d s = .next t at h
    unfold execLfDiv at h
    split at h
    · cases h
    · rename_i hn
      refine conclude_frames (i := .lfDiv d) (div_legal d s ?_) h rfl (by simp [layerOf]) (by simp) (by simp [writeSet, gpioRegs, jedecRegs])
      intro hs
      by_contra hd
      exact hn ⟨hs, by simpa [divisorEmitted] using hd⟩
  | spiWriteEnable =>
    exact conclude_flash (i := .spiWriteEnable) (sOp_legal _ s) h rfl (by simp) (by simp [writeSet, gpioRegs, jedecRegs])
  | spiReadStatus1 => exact conclude_flash (i := .spiReadStatus1) (sStatus_legal s) h rfl (by simp) (by simp [writeSet, gpioRegs, jedecRegs])
  | spiWriteStatus => exact conclude_flash (i := .spiWriteStatus) (sWriteStatus_legal s) h rfl (by simp) (by simp [writeSet, gpioRegs, jedecRegs])
  | spiPageProgram a d =>
    exact conclude_flash (i := .spiPageProgram a d) (ppOp_legal _ _ _ s) h rfl (by simp) (by simp [writeSet, gpioRegs, jedecRegs])
  | spiBlockErase64K a =>
    exact conclude_flash (i := .spiBlockErase64K a) (be64kOp_legal _ s) h rfl (by simp) (by simp [writeSet, gpioRegs, jedecRegs])
  | spiChipErase => exact conclude_flash (i := .spiChipErase) (sOp_legal _ s) h rfl (by simp) (by simp [writeSet, gpioRegs, jedecRegs])
  | spiPowerDown => exact conclude_flash (i := .spiPowerDown) (powerDownOp_legal s) h rfl (by simp) (by simp [writeSet, gpioRegs, jedecRegs])
  | spiReleasePowerDown =>
    exact conclude_flash (i := .spiReleasePowerDown) (powerUpOp_legal s) h rfl (by simp) (by simp [writeSet, gpioRegs, jedecRegs])
  | spiJedecId => exact conclude_flash (i := .spiJedecId) (rdIdOp_legal s) h rfl (by simp) (by simp [writeSet, gpioRegs, jedecRegs])
  | spiReadData a n =>
    exact conclude_flash (i := .spiReadData a n) (readOp_legal (0, 0) _ _ n s own_range) h rfl (by simp)
      (by simp [writeSet, gpioRegs])
  | spiReset => exact conclude_flash (i := .spiReset) (sReset_legal s) h rfl (by simp) (by simp [writeSet, gpioRegs, jedecRegs])
  | openReq slow =>
    refine conclude_does (i := .openReq slow) (openOp_legal slow s) h rfl (fun _ _ _ => ⟨by simp [layerOf], by simp⟩) ?_
    rintro a u evs hf hcl ⟨h1, h2, h3, h4, h5⟩
    refine ⟨fun _ => h1, fun _ => hcl, by simp, by simp [layerOf], fun hi => ?_⟩
    have hm := hf.mid hi.mid
    exact ⟨hm.memory, hm.chipSelect, hm.direction, fun _ => ⟨h3, h4, h5⟩, hm.captured, by simp [h2], by simp [h2],
      hm.divisor, hm.extended⟩
  | closeReq =>
    refine conclude_does (i := .closeReq) (closeOp_legal s) h rfl (fun _ _ _ => ⟨by simp [layerOf], by simp⟩) ?_
    rintro a u evs hf hcl ⟨h1, h2, h3, h4⟩
    refine ⟨fun _ => h1, fun _ => hcl, by simp, by simp [layerOf], fun hi => ?_⟩
    have hm := hf.mid hi.mid
    exact ⟨hm.memory, hm.chipSelect, hm.direction, by simp [h2], hm.captured, fun _ => h3, by simp [h2],
      hm.divisor, hm.extended⟩
  | abortReq =>
    have hr := abortOp_ends s
    change conclude .engine (fun _ => .unit) (abortOp s) = .next t at h
    unfold Res.Sat at hr
    cases hx : abortOp s with
    | ok a u =>
      rw [hx] at h hr
      cases h
      obtain ⟨evs, hf, h1, h2, h3, h4⟩ := hr
      refine .inr (.inr ⟨.unit, u, evs, hf, ⟨by simp, by simp, fun _ => h1, by simp [layerOf], fun hi => ?_⟩, rfl⟩)
      have hm := hf.mid hi.mid
      exact ⟨hm.memory, hm.chipSelect, hm.direction, by simp [h2], hm.captured, fun _ => h4, by simp [h2],
        hm.divisor, hm.extended⟩
    | raised c u => rw [hx] at hr; exact hr.elim
    | faulted f u => rw [hx] at hr; exact hr.elim
    | hung => rw [hx] at h; cases h
  | send op d =>
    exact conclude_frames (i := .send op d) (sendOp_legal op _ s) h rfl (by simp [layerOf]) (by simp)
      (by simp [writeSet])
  | xfer op b n =>
    exact conclude_frames (i := .xfer op b n) (xferOp_legal _ op (.host b) n s host_range) h rfl (by simp [layerOf])
      (by simp) (by simp [writeSet])
  | xbits v k =>
    exact conclude_frames (i := .xbits v k) (xbitsOp_legal v k s) h rfl (by simp [layerOf]) (by simp)
      (by simp [writeSet])
  | setGpio v d =>
    exact conclude_frames (i := .setGpio v d) (setGpioOp_legal v d s) h rfl (by simp [layerOf]) (by simp) (by simp [writeSet, gpioRegs, jedecRegs])
  | rdGpioL => exact conclude_frames (i := .rdGpioL) (rdGpioLOp_legal s) h rfl (by simp [layerOf]) (by simp) (by simp [writeSet, gpioRegs, jedecRegs])
  | rdGpioH => exact conclude_frames (i := .rdGpioH) (rdGpioHOp_legal s) h rfl (by simp [layerOf]) (by simp) (by simp [writeSet, gpioRegs, jedecRegs])
  | select => exact conclude_frames (i := .select) (setGpioOp_legal _ _ s) h rfl (by simp [layerOf]) (by simp) (by simp [writeSet, gpioRegs, jedecRegs])
  | deselect => exact conclude_frames (i := .deselect) (setGpioOp_legal _ _ s) h rfl (by simp [layerOf]) (by simp) (by simp [writeSet, gpioRegs, jedecRegs])
  | release => exact conclude_frames (i := .release) (setGpioOp_legal _ _ s) h rfl (by simp [layerOf]) (by simp) (by simp [writeSet, gpioRegs, jedecRegs])
  | bsend d n =>
    refine conclude_frames (i := .bsend d n) (?_ : Legal [] (0, 0) s _ Frames AnyRaise) h rfl (by simp [layerOf])
      (by simp) (by simp [writeSet])
    unfold bsendOp
    exact .check fun _ => .check fun _ => sendOp_legal _ _ s
  | bxfer b n =>
    exact conclude_frames (i := .bxfer b n) (xferOp_legal _ 0x31 (.host b) _ s host_range) h rfl (by simp [layerOf])
      (by simp) (by simp [writeSet])
  | freset => exact conclude_flash (i := .freset) (sReset_legal s) h rfl (by simp) (by simp [writeSet, gpioRegs, jedecRegs])
  | fpup => exact conclude_flash (i := .fpup) (powerUpOp_legal s) h rfl (by simp) (by simp [writeSet, gpioRegs, jedecRegs])
  | fpdn => exact conclude_flash (i := .fpdn) (powerDownOp_legal s) h rfl (by simp) (by simp [writeSet, gpioRegs, jedecRegs])
  | rdsr => exact conclude_flash (i := .rdsr) (poll_flash (rdsrOp_legal s)) h rfl (by simp) (by simp [writeSet, gpioRegs, jedecRegs])
  | wren => exact conclude_flash (i := .wren) (wrenOp_legal s) h rfl (by simp) (by simp [writeSet, gpioRegs, jedecRegs])
  | ce => exact conclude_flash (i := .ce) (sOp_legal _ s) h rfl (by simp) (by simp [writeSet, gpioRegs, jedecRegs])
  | be64k a =>
    exact conclude_flash (i := .be64k a) (be64kOp_legal a s) h rfl (by simp) (by simp [writeSet, gpioRegs])
  | pp a d n =>
    exact conclude_flash (i := .pp a d n) (ppOp_legal a _ n s) h rfl (by simp) (by simp [writeSet, gpioRegs])
  | read a b n =>
    exact conclude_flash (i := .read a b n) (readOp_legal _ a (.host b) n s host_range) h rfl (by simp)
      (by simp [writeSet, gpioRegs])
  | waitBusy => exact conclude_flash (i := .waitBusy) (waitBusyOp_legal s) h rfl (by simp) (by simp [writeSet, gpioRegs, jedecRegs])
  | disProt => exact conclude_flash (i := .disProt) (disProtOp_legal s) h rfl (by simp) (by simp [writeSet, gpioRegs, jedecRegs])
  | rdId => exact conclude_flash (i := .rdId) (rdIdOp_legal s) h rfl (by simp) (by simp [writeSet, gpioRegs, jedecRegs])

end Sys2Proof.Machine
end

