-- ==== Sys2Proof/Laws/PerInstr.lean ====
section
/-! SUPPORT. The per-instruction family `FrameLength`: the length the decoder reads from an encoding's first bytes
(30_encoding.md R80, R82, R87), one lemma per constructor. -/

namespace Sys2Proof.Laws.FrameLength

/-- The first bytes of an instruction's encoding say how long it is: at least one byte, never more than it has, and
exactly its length for a link frame, whose end no other byte marks (R71, R80). -/
def Statement (i : Instr) : Prop :=
  i.wf = true → ∀ bs, encode i = some bs → 1 ≤ fullLength bs ∧ fullLength bs ≤ bs.length ∧
    ((Machine.responseBytes i).isSome = true → fullLength bs = bs.length)

/-- The length field of a byte frame of n bytes names n bytes again (R82). -/
theorem le16_lo_hi (n : Nat) (h1 : 1 ≤ n) (h2 : n ≤ Config.maxFrame) : le16 (lo8 (n - 1)) (hi8 (n - 1)) + 1 = n := by
  simp only [Config.maxFrame] at h2
  simp only [le16, lo8, hi8, BitVec.toNat_ofNat]
  omega

theorem lfBo (payload : Bytes) : Statement (.lfBo payload) := by
  intro hw bs he
  obtain ⟨h1, h2⟩ := of_decide_eq_true hw
  obtain rfl := Option.some.inj he
  have h := le16_lo_hi payload.length h1 h2
  have hl : fullLength (byteHeader 0x11 payload.length ++ payload) = (byteHeader 0x11 payload.length ++ payload).length := by
    simp only [fullLength, byteHeader, List.cons_append, List.nil_append, List.getD_cons_zero, List.getD_cons_succ,
      List.length_cons]
    rw [h, if_pos (by decide)]
    omega
  exact ⟨by rw [hl]; simp [byteHeader], hl.le, fun _ => hl⟩

theorem lfBx (payload : Bytes) : Statement (.lfBx payload) := by
  intro hw bs he
  obtain ⟨h1, h2⟩ := of_decide_eq_true hw
  obtain rfl := Option.some.inj he
  have h := le16_lo_hi payload.length h1 h2
  have hl : fullLength (byteHeader 0x31 payload.length ++ payload) = (byteHeader 0x31 payload.length ++ payload).length := by
    simp only [fullLength, byteHeader, List.cons_append, List.nil_append, List.getD_cons_zero, List.getD_cons_succ,
      List.length_cons]
    rw [h, if_pos (by decide)]
    omega
  exact ⟨by rw [hl]; simp [byteHeader], hl.le, fun _ => hl⟩

theorem lfBits (K : BitVec 3) (v : Byte) : Statement (.lfBits K v) := by
  intro _ bs he
  obtain rfl := Option.some.inj he
  exact ⟨by simp [fullLength], by simp [fullLength], fun _ => rfl⟩

theorem lfGset (v : Byte) : Statement (.lfGset v) := by
  intro _ bs he
  obtain rfl := Option.some.inj he
  exact ⟨by simp [fullLength], by simp [fullLength], fun _ => rfl⟩

theorem lfGrdLow : Statement .lfGrdLow := by
  intro _ bs he
  obtain rfl := Option.some.inj he
  exact ⟨by decide, by decide, fun _ => rfl⟩

theorem lfGrdHigh : Statement .lfGrdHigh := by
  intro _ bs he
  obtain rfl := Option.some.inj he
  exact ⟨by decide, by decide, fun _ => rfl⟩

theorem lfClk5 : Statement .lfClk5 := by
  intro _ bs he
  obtain rfl := Option.some.inj he
  exact ⟨by decide, by decide, fun _ => rfl⟩

theorem lfDiv (d : BitVec 16) : Statement (.lfDiv d) := by
  intro _ bs he
  obtain rfl := Option.some.inj he
  exact ⟨by simp [fullLength, divFrame], by simp [fullLength, divFrame], fun _ => rfl⟩

theorem spiWriteEnable : Statement .spiWriteEnable := by
  intro _ bs he
  obtain rfl := Option.some.inj he
  exact ⟨by decide, by decide, nofun⟩

theorem spiReadStatus1 : Statement .spiReadStatus1 := by
  intro _ bs he
  obtain rfl := Option.some.inj he
  exact ⟨by decide, by decide, nofun⟩

theorem spiWriteStatus : Statement .spiWriteStatus := by
  intro _ bs he
  obtain rfl := Option.some.inj he
  exact ⟨by decide, by decide, nofun⟩

theorem spiPageProgram (addr : FlashAddr) (data : Bytes) : Statement (.spiPageProgram addr data) := by
  intro _ bs he
  obtain rfl := Option.some.inj he
  simp [fullLength, addrBytes, Machine.responseBytes]

theorem spiBlockErase64K (addr : FlashAddr) : Statement (.spiBlockErase64K addr) := by
  intro _ bs he
  obtain rfl := Option.some.inj he
  exact ⟨by simp [fullLength, addrBytes], by simp [fullLength, addrBytes], nofun⟩

theorem spiChipErase : Statement .spiChipErase := by
  intro _ bs he
  obtain rfl := Option.some.inj he
  exact ⟨by decide, by decide, nofun⟩

theorem spiPowerDown : Statement .spiPowerDown := by
  intro _ bs he
  obtain rfl := Option.some.inj he
  exact ⟨by decide, by decide, nofun⟩

theorem spiReleasePowerDown : Statement .spiReleasePowerDown := by
  intro _ bs he
  obtain rfl := Option.some.inj he
  exact ⟨by decide, by decide, nofun⟩

theorem spiJedecId : Statement .spiJedecId := by
  intro _ bs he
  obtain rfl := Option.some.inj he
  exact ⟨by decide, by decide, nofun⟩

theorem spiReadData (addr : FlashAddr) (n : Nat) : Statement (.spiReadData addr n) := by
  intro _ bs he
  obtain rfl := Option.some.inj he
  simp [fullLength, addrBytes, Machine.responseBytes]

theorem spiReset : Statement .spiReset := by
  intro _ bs he
  obtain rfl := Option.some.inj he
  exact ⟨by decide, by decide, nofun⟩

theorem openReq (slow : Bool) : Statement (.openReq slow) := fun _ _ h => nomatch h

theorem closeReq : Statement .closeReq := fun _ _ h => nomatch h

theorem abortReq : Statement .abortReq := fun _ _ h => nomatch h

theorem send (op : Byte) (data : Data) : Statement (.send op data) := fun _ _ h => nomatch h

theorem xfer (op : Byte) (buf : Buf) (n : Nat) : Statement (.xfer op buf n) := fun _ _ h => nomatch h

theorem xbits (v : Byte) (k : Nat) : Statement (.xbits v k) := fun _ _ h => nomatch h

theorem setGpio (v d : Byte) : Statement (.setGpio v d) := fun _ _ h => nomatch h

theorem rdGpioL : Statement .rdGpioL := fun _ _ h => nomatch h

theorem rdGpioH : Statement .rdGpioH := fun _ _ h => nomatch h

theorem select : Statement .select := fun _ _ h => nomatch h

theorem deselect : Statement .deselect := fun _ _ h => nomatch h

theorem release : Statement .release := fun _ _ h => nomatch h

theorem bsend (data : Data) (n : Option Nat) : Statement (.bsend data n) := fun _ _ h => nomatch h

theorem bxfer (buf : Buf) (n : Option Nat) : Statement (.bxfer buf n) := fun _ _ h => nomatch h

theorem freset : Statement .freset := fun _ _ h => nomatch h

theorem fpup : Statement .fpup := fun _ _ h => nomatch h

theorem fpdn : Statement .fpdn := fun _ _ h => nomatch h

theorem rdsr : Statement .rdsr := fun _ _ h => nomatch h

theorem wren : Statement .wren := fun _ _ h => nomatch h

theorem ce : Statement .ce := fun _ _ h => nomatch h

theorem be64k (addr : Nat) : Statement (.be64k addr) := fun _ _ h => nomatch h

theorem pp (addr : Nat) (data : Data) (n : Nat) : Statement (.pp addr data n) := fun _ _ h => nomatch h

theorem read (addr : Nat) (buf : Buf) (n : Nat) : Statement (.read addr buf n) := fun _ _ h => nomatch h

theorem waitBusy : Statement .waitBusy := fun _ _ h => nomatch h

theorem disProt : Statement .disProt := fun _ _ h => nomatch h

theorem rdId : Statement .rdId := fun _ _ h => nomatch h

end Sys2Proof.Laws.FrameLength
end

