-- ==== Sys2Proof/Machine/Asm.lean ====
section
/-! DEFINITION. The text of host requests (30_encoding.md R94, R96): lines `MNEMONIC operand, operand ... ; comment`,
numbers decimal or 0x hexadecimal, byte lists, and the buffer declarations `buf NAME = [bytes]` and
`buf NAME = zeros(n)`. A program has no labels or branches. It is the host's notation, not the block's (log 22). -/

namespace Sys2Proof.Machine

/-- The tokens of a line. -/
inductive Tok where
  | word (w : List Char)
  | num (n : Nat)
  | comma
  | openB
  | closeB
  | openP
  | closeP
  | equals
  deriving DecidableEq, Repr, Inhabited

/-- An operand as written. -/
inductive Arg where
  | num (n : Nat)
  | list (ns : List Nat)
  | name (w : List Char)
  deriving DecidableEq, Repr, Inhabited

/-- The value of a hexadecimal digit. -/
def hexDigit (c : Char) : Option Nat :=
  if '0' ≤ c ∧ c ≤ '9' then some (c.toNat - '0'.toNat)
  else if 'a' ≤ c ∧ c ≤ 'f' then some (c.toNat - 'a'.toNat + 10)
  else if 'A' ≤ c ∧ c ≤ 'F' then some (c.toNat - 'A'.toNat + 10)
  else none

/-- A number's digits in a base, most significant first. -/
def digitsVal (base : Nat) : Nat → List Char → Option Nat
  | acc, [] => some acc
  | acc, c :: cs =>
    match hexDigit c with
    | some d => if d < base then digitsVal base (acc * base + d) cs else none
    | none => none

/-- A decimal or 0x number (R96). -/
def numVal : List Char → Option Nat
  | '0' :: 'x' :: c :: cs => digitsVal 16 0 (c :: cs)
  | c :: cs => digitsVal 10 0 (c :: cs)
  | [] => none

/-- A character of a word or number. -/
def wordChar (c : Char) : Bool := c.isAlphanum || c == '_'

/-- The token a run of word characters (collected last first) is, if there is any. -/
def flushWord (acc : List Char) : Option (List Tok) :=
  match acc.reverse with
  | [] => some []
  | c :: cs => if c.isDigit then (numVal (c :: cs)).map fun n => [.num n] else some [.word (c :: cs)]

/-- The token of a punctuation character. -/
def punct (c : Char) : Option Tok :=
  if c = ',' then some .comma
  else if c = '[' then some .openB
  else if c = ']' then some .closeB
  else if c = '(' then some .openP
  else if c = ')' then some .closeP
  else if c = '=' then some .equals
  else none

/-- The tokens of a line; a `;` starts a comment. -/
def lex : List Char → List Char → Option (List Tok)
  | [], acc => flushWord acc
  | c :: cs, acc =>
    if wordChar c then lex cs (c :: acc)
    else if c = ';' then flushWord acc
    else if c = ' ' ∨ c = '\t' then
      match flushWord acc, lex cs [] with
      | some a, some b => some (a ++ b)
      | _, _ => none
    else
      match flushWord acc, punct c, lex cs [] with
      | some a, some p, some b => some (a ++ p :: b)
      | _, _, _ => none

/-- The rest of a byte list after its `[` or a comma inside it. -/
def parseList : List Tok → Option (List Nat × List Tok)
  | .num n :: .closeB :: r => some ([n], r)
  | .num n :: .comma :: r => (parseList r).map fun p => (n :: p.1, p.2)
  | _ => none

/-- One operand. -/
def parseArg : List Tok → Option (Arg × List Tok)
  | .num n :: r => some (.num n, r)
  | .word w :: r => some (.name w, r)
  | .openB :: .closeB :: r => some (.list [], r)
  | .openB :: r => (parseList r).map fun p => (.list p.1, p.2)
  | _ => none

/-- The operands, separated by commas; `fuel` bounds their number. -/
def parseArgs : Nat → List Tok → Option (List Arg)
  | 0, _ => none
  | fuel + 1, ts =>
    match parseArg ts with
    | some (a, []) => some [a]
    | some (a, .comma :: r) => (parseArgs fuel r).map (a :: ·)
    | _ => none

/-- The declared buffers (R96). -/
abbrev Symbols := List (List Char × Buf)

/-- The buffer a name stands for. -/
def lookupBuf : Symbols → List Char → Option Buf
  | [], _ => none
  | (n, b) :: r, w => if n = w then some b else lookupBuf r w

/-- A number as a byte (R94: `op`, `v` and `d` are bytes). -/
def asByte (n : Nat) : Option Byte := if n < 256 then some (BitVec.ofNat 8 n) else none

/-- Numbers as bytes. -/
def asBytes : List Nat → Option Bytes
  | [] => some []
  | n :: ns =>
    match asByte n, asBytes ns with
    | some b, some bs => some (b :: bs)
    | _, _ => none

/-- A `data` operand: "a byte list or a buffer" (R94). -/
def asData (syms : Symbols) : Arg → Option Data
  | .list ns => (asBytes ns).map .list
  | .name w => (lookupBuf syms w).map .buffer
  | .num _ => none

/-- A `buf` operand. -/
def asBuf (syms : Symbols) : Arg → Option Buf
  | .name w => lookupBuf syms w
  | .num _ => none
  | .list _ => none

/-- The request a mnemonic and its operands name (R94). -/
def build (syms : Symbols) (w : List Char) (args : List Arg) : Option Instr :=
  match args with
  | [] =>
    if w = "CLOSE".toList then some .closeReq
    else if w = "ABORT".toList then some .abortReq
    else if w = "RDGPIOL".toList then some .rdGpioL
    else if w = "RDGPIOH".toList then some .rdGpioH
    else if w = "SELECT".toList then some .select
    else if w = "DESELECT".toList then some .deselect
    else if w = "RELEASE".toList then some .release
    else if w = "FRESET".toList then some .freset
    else if w = "FPUP".toList then some .fpup
    else if w = "FPDN".toList then some .fpdn
    else if w = "RDSR".toList then some .rdsr
    else if w = "WREN".toList then some .wren
    else if w = "CE".toList then some .ce
    else if w = "WAITBUSY".toList then some .waitBusy
    else if w = "DISPROT".toList then some .disProt
    else if w = "RDID".toList then some .rdId
    else none
  | [.num n] =>
    if w = "OPEN".toList then (if n = 0 then some (.openReq false) else if n = 1 then some (.openReq true) else none)
    else if w = "BE64K".toList then some (.be64k n)
    else none
  | [a] =>
    if w = "BSEND".toList then (asData syms a).map fun d => .bsend d none
    else if w = "BXFER".toList then (asBuf syms a).map fun b => .bxfer b none
    else none
  | [.num x, .num y] =>
    if w = "XBITS".toList then (asByte x).map fun v => .xbits v y
    else if w = "SET_GPIO".toList then
      match asByte x, asByte y with
      | some v, some d => some (.setGpio v d)
      | _, _ => none
    else none
  | [.num x, a] =>
    if w = "SEND".toList then
      match asByte x, asData syms a with
      | some op, some d => some (.send op d)
      | _, _ => none
    else none
  | [a, .num n] =>
    if w = "BSEND".toList then (asData syms a).map fun d => .bsend d (some n)
    else if w = "BXFER".toList then (asBuf syms a).map fun b => .bxfer b (some n)
    else none
  | [.num x, a, .num n] =>
    if w = "XFER".toList then
      match asByte x, asBuf syms a with
      | some op, some b => some (.xfer op b n)
      | _, _ => none
    else if w = "PP".toList then (asData syms a).map fun d => .pp x d n
    else if w = "READ".toList then (asBuf syms a).map fun b => .read x b n
    else none
  | _ => none

/-- A program being assembled: the declared buffers, the first free address, and what is loaded so far. -/
structure AsmState where
  syms : Symbols
  free : Nat
  mem : Memory
  items : List HostItem
  deriving DecidableEq, Repr, Inhabited

/-- Declare a buffer of the given bytes at the first free address. -/
def declareBuf (w : List Char) (bs : Bytes) (a : AsmState) : AsmState :=
  { a with
    syms := (w, ⟨a.free, bs.length⟩) :: a.syms
    free := a.free + bs.length
    mem := writeBytes a.mem a.free bs }

/-- One line's tokens: nothing, a declaration, or a request. -/
def assembleToks (ts : List Tok) (a : AsmState) : Option AsmState :=
  match ts with
  | [] => some a
  | .word kw :: .word w :: .equals :: .word z :: .openP :: .num n :: [.closeP] =>
    if kw = "buf".toList ∧ z = "zeros".toList then some (declareBuf w (zeros n) a) else none
  | .word kw :: .word w :: .equals :: r =>
    if kw = "buf".toList then
      match parseArg r with
      | some (.list ns, []) => (asBytes ns).map fun bs => declareBuf w bs a
      | _ => none
    else none
  | .word w :: r =>
    match (if r = [] then some [] else parseArgs r.length r) with
    | some args => (build a.syms w args).map fun i => { a with items := a.items ++ [.request i] }
    | none => none
  | _ => none

/-- One line (R96). -/
def assembleLine (line : List Char) (a : AsmState) : Option AsmState :=
  match lex line [] with
  | some ts => assembleToks ts a
  | none => none

/-- The lines of a program, in order. -/
def assembleLines : List (List Char) → AsmState → Option AsmState
  | [], a => some a
  | l :: ls, a =>
    match assembleLine l a with
    | some b => assembleLines ls b
    | none => none

/-- Load a program: its buffers into host memory and its requests behind the request stream; `none` if a line is not in
the syntax. -/
def loadProgram (lines : List (List Char)) (s : State) : Option State :=
  (assembleLines lines ⟨[], 0, s.mem, []⟩).map fun a => { s with mem := a.mem, queue := s.queue ++ a.items }

end Sys2Proof.Machine
end

