-- ==== Sys2Proof/Tests/Slice0.lean ====
section
/-! SUPPORT. The model's own tests. Expected values are written out from spec/, mostly from 95_test_vectors.md (V and X
numbers); each witness theorem shows a state and operands that meet an obligation's hypotheses, at the ends of their
ranges. -/

namespace Sys2Proof.Tests

open Sys2Proof.Machine

/-! Helpers. -/

/-- ST0 of 95_test_vectors.md §0, with the transport's coming write and read answers and a small fuel. -/
def st0 (w : List WriteAns) (r : List ReadAns) : State :=
  { State.reset with
    session := .opened, handle := true, latSaved := some 16, latCaptured := true, slow := some false, clkdiv := some 0
    gpioVal := some 0x10, gpioDir := some 0x93, writes := w, reads := r, opts := { Options.default with fuel := 8 } }

/-- ST0 after `RELEASE`: `GPIO_VAL` = 0x90. -/
def released (w : List WriteAns) (r : List ReadAns) : State := { st0 w r with gpioVal := some 0x90 }

/-- ST0 with a buffer of the given bytes at address 0. -/
def withBuf (bs : Bytes) (w : List WriteAns) (r : List ReadAns) : State := { st0 w r with mem := writeBytes [] 0 bs }

/-- A closed block whose transport gives the answers held. -/
def closedState (c : List CtrlAns) (w : List WriteAns) : State := { State.reset with ctrls := c, writes := w }

/-- V38's start: after `FPDN`, `RELEASE`. -/
def parked (c : List CtrlAns) : State := { released [] [] with flashPwr := .down, ctrls := c }

/-- A failed session that holds the handle and the latency timer. -/
def failedState (r : List ReadAns) (c : List CtrlAns) : State :=
  { st0 [] r with session := .failed, err := some ⟨.hardwareError, .shortWrite, .engine⟩, ctrls := c }

/-- `n` successful write answers. -/
def ws (n : Nat) : List WriteAns := List.replicate n .full

/-- `o` is a next state that shows `a`. -/
def shows {α : Type} [DecidableEq α] (o : Host.Outcome State Fault Refusal) (f : State → α) (a : α) : Bool :=
  match o with
  | .next t => decide (f t = a)
  | .fault _ => false
  | .refused _ => false

/-- Whether the machine hangs. -/
def hangs (o : Host.Outcome State Fault Refusal) : Bool :=
  match o with
  | .next _ => false
  | .fault .hung => true
  | .refused _ => false

/-- The bytes the bridge received and how the request ended. -/
def sent (t : State) : Bytes × Answer := (txBytes t.txlog, t.answer)

/-- How a raise looks to the host. -/
def raisedAs (c : Cause) (l : Layer) : Answer := .raised ⟨.hardwareError, c, l⟩

theorem st0_inReset (w : List WriteAns) (r : List ReadAns) : InReset (st0 w r) := ⟨0x10, rfl, rfl⟩

theorem st0_inv (w : List WriteAns) (r : List ReadAns) : Inv (st0 w r) where
  memory := rfl
  chipSelect v h := by cases h; decide
  direction _ _ := rfl
  openSession _ := ⟨rfl, rfl, rfl⟩
  captured _ := ⟨rfl, 16, rfl⟩
  closedSession := nofun
  failedSession := nofun
  divisor := rfl
  extended := nofun

/-! Well-formedness: each check refuses an ill-formed instruction, and admits the last good one. -/

theorem test_wf_lfBo : (Instr.lfBo []).wf = false ∧ (∀ bs : Bytes, bs.length = 65536 → (Instr.lfBo bs).wf = true) ∧
    ∀ bs : Bytes, bs.length = 65537 → (Instr.lfBo bs).wf = false := by
  refine ⟨rfl, ?_, ?_⟩ <;> intro bs h <;> simp [Instr.wf, h]

theorem test_wf_lfBx : (Instr.lfBx []).wf = false ∧ (∀ bs : Bytes, bs.length = 65536 → (Instr.lfBx bs).wf = true) ∧
    ∀ bs : Bytes, bs.length = 65537 → (Instr.lfBx bs).wf = false := by
  refine ⟨rfl, ?_, ?_⟩ <;> intro bs h <;> simp [Instr.wf, h]

theorem test_wf_spiPageProgram : (Instr.spiPageProgram 0x0000FF [0]).wf = true ∧
    (Instr.spiPageProgram 0x0000FF [0, 0]).wf = false := by decide

theorem test_wf_spiReadData : (Instr.spiReadData 0 65536).wf = true ∧ (Instr.spiReadData 0 65537).wf = false := by
  decide

/-! Decoding: words written out from the encodings of R73 to R79 and R87, R88. -/

theorem test_decode_byteFrames :
    decode [0x11, 0x01, 0x00, 0xDE, 0xAD] = .ok (.lfBo [0xDE, 0xAD]) [] ∧
    decode [0x31, 0x01, 0x00, 0x05, 0x00, 0x81] = .ok (.lfBx [0x05, 0x00]) [0x81] ∧
    decode [0x11, 0x00, 0x00] = .bad .truncated ∧
    decode [0x31, 0x00, 0x01, 0x00] = .bad .truncated := by decide

theorem test_decode_shortFrames :
    decode [0x33, 0x02, 0xA0] = .ok (.lfBits 2 0xA0) [] ∧ decode [0x33, 0x07, 0x5A] = .ok (.lfBits 7 0x5A) [] ∧
    decode [0x33, 0x08, 0x5A] = .bad .operand ∧
    decode [0x80, 0x90, 0x93] = .ok (.lfGset 0x90) [] ∧ decode [0x80, 0x90, 0xFF] = .bad .operand ∧
    decode [0x81] = .ok .lfGrdLow [] ∧ decode [0x83] = .ok .lfGrdHigh [] ∧ decode [0x8B] = .ok .lfClk5 [] ∧
    decode [0x86, 0x77, 0x00] = .ok (.lfDiv 119) [] ∧ decode [0x86, 0x34, 0x12] = .ok (.lfDiv 0x1234) [] := by decide

theorem test_decode_spiFixed :
    decode [0x06] = .ok .spiWriteEnable [] ∧ decode [0x05, 0x00] = .ok .spiReadStatus1 [] ∧
    decode [0x01, 0x00] = .ok .spiWriteStatus [] ∧ decode [0x01, 0x1C] = .bad .operand ∧
    decode [0xC7] = .ok .spiChipErase [] ∧ decode [0xB9] = .ok .spiPowerDown [] ∧
    decode [0xAB] = .ok .spiReleasePowerDown [] ∧ decode [0x06, 0x00] = .bad .trailing ∧
    decode [0xFF, 0xFF, 0xFF, 0xFF, 0xFF, 0xFF, 0xFF, 0xFF] = .ok .spiReset [] ∧
    decode [0xFF, 0xFF] = .bad .truncated := by decide

theorem test_decode_spiAddressed :
    decode [0x02, 0x00, 0x01, 0x00, 0xAA, 0xBB] = .ok (.spiPageProgram 0x000100 [0xAA, 0xBB]) [] ∧
    decode [0x02, 0x00, 0x00, 0xFF, 0xAA, 0xBB] = .bad .operand ∧
    decode [0xD8, 0x01, 0x23, 0x45] = .ok (.spiBlockErase64K 0x012345) [] ∧
    decode [0x03, 0x12, 0x34, 0x56, 0x00] = .ok (.spiReadData 0x123456 1) [] ∧
    decode [0x03, 0x12, 0x34, 0x56, 0x77] = .bad .operand ∧
    decode [0x9F, 0x00, 0x00, 0x00, 0x00] = .ok .spiJedecId [] ∧
    decode [0x9F, 0x00, 0x00, 0x00, 0x00, 0x00] = .ok .spiJedecId [] := by decide

theorem test_decode_refuses : decode [] = .bad .empty ∧ decode [0x13, 0x00, 0x00] = .bad (.opcode 0x13) ∧
    decode [0x82, 0x00, 0x00] = .bad (.opcode 0x82) := by decide

theorem test_decodeTableWord :
    decodeTableWord 24 0x3302A0 = some (.lfBits 2 0xA0) ∧ decodeTableWord 24 0x809093 = some (.lfGset 0x90) ∧
    decodeTableWord 24 0x867700 = some (.lfDiv 119) ∧ decodeTableWord 8 0x11 = some (.lfBo [0]) ∧
    decodeTableWord 32 0xD8012345 = some (.spiBlockErase64K 0x012345) ∧ decodeTableWord 8 0x9F = some .spiJedecId ∧
    decodeTableWord 8 0x13 = none ∧ decodeTableWord 8 0xFF = some .spiReset ∧
    decodeTableWord 64 0xFFFFFFFFFFFFFFFF = some .spiReset ∧ decodeTableWord 16 0x0500 = some .spiReadStatus1 := by decide

theorem test_withFetchWord : shows (step (State.reset.withFetchWord 8 0x81)) (fun t => t.answer) (.faulted .session) := by
  decide

/-! The assembler (R94, R96). -/

theorem test_assembler :
    (loadProgram ["buf B = [0x05, 0]".toList, "XFER 0x31, B, 2 ; status".toList, "SET_GPIO 144, 0x93".toList,
      "PP 0x100, [1, 2], 2".toList, "BXFER B".toList] State.reset).map (fun t => (t.queue, t.mem)) =
    some ([.request (.xfer 0x31 ⟨0, 2⟩ 2), .request (.setGpio 0x90 0x93), .request (.pp 0x100 (.list [1, 2]) 2),
      .request (.bxfer ⟨0, 2⟩ none)], [(0, 0x05)]) := by decide

theorem test_assembler_refuses : loadProgram ["SEND 0x111, [1]".toList] State.reset = none ∧
    loadProgram ["JUMP 3".toList] State.reset = none := by decide

/-! Engine byte transfers. -/

/-- V1, V4 to V6. -/
theorem test_send : shows (exec (.send 0x11 (.list [0x06])) (st0 (ws 2) [])) sent ([0x11, 0, 0, 0x06], .done .unit) ∧
    shows (exec (.send 0x31 (.list [0x06])) (st0 [] [])) sent ([], .faulted .linkOp) ∧
    shows (exec (.send 0x11 (.list [1, 2])) (st0 [.full, .count 1 1] [])) (fun t => (sent t, t.session))
      (([0x11, 1, 0, 1], raisedAs .shortWrite .engine), .failed) := by decide

/-- V7: an over-count is a failure. -/
theorem test_send_overcount : shows (exec (.send 0x11 (.list [1])) (st0 [.count 4 3] [])) (fun t => t.answer)
    (raisedAs .shortWrite .engine) := by decide

/-- V9: byte 2 is unchanged. V12: byte 0 received, byte 1 as sent. -/
theorem test_xfer :
    shows (exec (.xfer 0x31 ⟨0, 3⟩ 2) (withBuf [1, 2, 3] (ws 2) [.byte 0xA0, .byte 0xA1]))
      (fun t => (txBytes t.txlog, t.mem)) ([0x31, 1, 0, 1, 2], [(0, 0xA0), (1, 0xA1), (2, 3)]) ∧
    shows (exec (.xfer 0x31 ⟨0, 2⟩ 2) (withBuf [5, 9] (ws 2) [.byte 0x7E, .negative 0]))
      (fun t => (t.answer, t.mem)) (raisedAs .readNeg .engine, [(0, 0x7E), (1, 9)]) := by decide

/-- V13, V14. -/
theorem test_xfer_polls :
    shows (exec (.xfer 0x31 ⟨0, 1⟩ 1) (withBuf [0] (ws 2) [.empty, .empty, .byte 0x5A])) (fun t => t.txlog.drop 2)
      [.read .empty, .idle .rx, .read .empty, .idle .rx, .read (.byte 0x5A)] ∧
    shows (exec (.xfer 0x31 ⟨0, 1⟩ 1)
      { withBuf [0] (ws 2) [.empty, .empty] with opts := ⟨false, some 2, none, 8⟩ })
      (fun t => (t.answer, t.txlog.drop 2)) (raisedAs .pollBound .engine, [.read .empty, .idle .rx, .read .empty]) := by
  decide

/-- V16, V18, V19. -/
theorem test_xbits : shows (exec (.xbits 0xA0 3) (st0 (ws 1) [.byte 0x40])) (fun t => (txBytes t.txlog, t.bitsIn))
      ([0x33, 2, 0xA0], some 0x40) ∧
    shows (exec (.xbits 0x5A 0) (st0 [] [])) (fun t => (sent t, t.bitsIn)) (([], .done (.byte 0)), none) ∧
    shows (exec (.xbits 0x5A 9) (st0 [] [])) sent ([], .faulted .bits) := by decide

/-- V20 to V23. -/
theorem test_setGpio :
    shows (exec (.setGpio 0x90 0x93) (st0 (ws 1) [])) (fun t => (txBytes t.txlog, t.gpioVal)) ([0x80, 0x90, 0x93], some 0x90) ∧
    shows (exec (.setGpio 0x80 0x12) (st0 [] [])) sent ([], .faulted .gpioDir) ∧
    shows (exec (.setGpio 0x10 0x93) (st0 [.count 2 2] [])) (fun t => (t.answer, t.gpioVal))
      (raisedAs .shortWrite .engine, none) := by decide

/-- V24. -/
theorem test_rdGpioL : shows (exec .rdGpioL (st0 (ws 1) [.byte 0x40])) (fun t => (txBytes t.txlog, t.gpioInLo, cdone t))
    ([0x81], some 0x40, some true) := by decide

/-- V26. -/
theorem test_rdGpioH : shows (exec .rdGpioH (st0 (ws 1) [.byte 0x2B])) (fun t => (txBytes t.txlog, t.gpioInHi))
    ([0x83], some 0x2B) := by decide

/-- V28, V30 to V32. -/
theorem test_open :
    shows (exec (.openReq true) (closedState (List.replicate 6 (.success 16)) (ws 2)))
      (fun t => (txBytes t.txlog, t.slow, t.clkdiv, t.latSaved, t.gpioDir))
      ([0x8B, 0x86, 0x77, 0], some true, some 119, some 16, some 0xFF) ∧
    shows (exec (.openReq false) (closedState [.failure] [])) (fun t => (t.txlog, t.handle, t.latCaptured, t.session))
      ([.ctrl .acquire .failure], false, false, .failed) := by decide

/-- V32. -/
theorem test_open_shortWrite :
    shows (exec (.openReq false) (closedState (List.replicate 6 (.success 16)) [.count 0 0]))
      (fun t => (t.answer, t.handle, t.latCaptured, t.gpioDir, t.slow))
      (raisedAs .shortWrite .engine, true, true, some 0xFF, none) := by decide

/-- V35, V36. -/
theorem test_abort :
    shows (exec .abortReq (failedState [.byte 0xFA, .empty] [.success 0, .success 0]))
      (fun t => (t.txlog, t.warnlog, t.handle, t.session))
      ([.read (.byte 0xFA), .read .empty, .ctrl (.setLatency 16) .success, .ctrl .release .success],
        [.unexpectedRx 0xFA], false, .closed) ∧
    shows (exec .abortReq (failedState [.negative 0] [.success 0, .failure])) (fun t => (t.answer, t.session))
      (.done .unit, .closed) := by decide

/-- V37: "hung". -/
theorem test_abort_hangs : hangs (exec .abortReq (failedState (List.replicate 9 (.byte 1)) [])) := by decide

/-- V38, V39, V41. -/
theorem test_close :
    shows (exec .closeReq (parked (List.replicate 3 (.success 0)))) (fun t => (t.txlog, t.session, t.handle, t.latCaptured))
      ([.ctrl (.setLatency 16) .success, .ctrl (.setBitmode 0 .reset) .success, .ctrl .release .success],
        .closed, false, false) ∧
    shows (exec .closeReq (st0 [] [])) sent ([], .faulted .unsafeClose) ∧
    shows (exec .closeReq (parked [.failure])) (fun t => (t.answer, t.session, t.handle))
      (raisedAs .ctrlFail .engine, .failed, true) := by decide

/-! The GPIO control multiplexer. -/

/-- The table of R114's vectors: the values against the prior `GPIO_VAL`. -/
theorem test_csOrder :
    ([0x00, 0x10, 0x90, 0x80, 0x01, 0x13].map fun v => [none, some 0x00, some 0x10, some 0x90].map fun g =>
      csOrderOk v { State.reset with gpioVal := g }) =
    [[false, true, true, false], [true, true, true, true], [true, true, true, true], [false, false, false, false],
     [false, true, true, false], [true, true, true, true]] := by decide

/-- V44, V45, V47. -/
theorem test_select : shows (exec .select (st0 (ws 1) [])) (fun t => (txBytes t.txlog, csAsserted t, resetHeld t))
      ([0x80, 0, 0x93], some true, some true) ∧
    shows (exec .select (released [] [])) sent ([], .faulted .csOrder) ∧
    shows (exec .select (st0 [.count 0 0] [])) (fun t => (t.answer, t.gpioVal)) (raisedAs .shortWrite .bus, none) := by
  decide

/-- V46. -/
theorem test_release : shows (exec .release { st0 (ws 1) [] with gpioVal := some 0 })
    (fun t => (txBytes t.txlog, t.gpioVal)) ([0x80, 0x90, 0x93], some 0x90) := by decide

/-- R117. -/
theorem test_deselect : shows (exec .deselect (released (ws 1) [])) (fun t => (txBytes t.txlog, t.gpioVal))
    ([0x80, 0x10, 0x93], some 0x10) := by decide

/-- V49 to V51, V53. -/
theorem test_bsend : shows (exec (.bsend (.list [1, 2, 3]) (some 2)) (st0 (ws 2) [])) sent ([0x11, 1, 0, 1, 2], .done .unit) ∧
    shows (exec (.bsend (.list [1, 2]) (some 3)) (st0 [] [])) sent ([], .faulted .buf) ∧
    shows (exec (.bsend (.list [1]) (some 0)) (st0 [] [])) sent ([], .done .unit) ∧
    shows (exec (.bsend (.list [6]) none) (st0 [.count 1 1] [])) (fun t => t.answer) (raisedAs .shortWrite .bus) := by
  decide

/-- V52: `JEDEC_*` are not written. -/
theorem test_bxfer :
    shows (exec (.bxfer ⟨0, 5⟩ none) (withBuf [0x9F, 0, 0, 0, 0] (ws 2) (byteReads [0xFF, 0xEF, 0x40, 0x16, 0])))
      (fun t => (txBytes t.txlog, readBytes t.mem 0 5, t.jedecMfr))
      ([0x31, 4, 0, 0x9F, 0, 0, 0, 0], [0xFF, 0xEF, 0x40, 0x16, 0], none) := by decide

/-! Flash requests. -/

/-- V54. -/
theorem test_freset : shows (exec .freset (st0 (ws 4) [])) sent
    ([0x80, 0, 0x93, 0x11, 7, 0, 0xFF, 0xFF, 0xFF, 0xFF, 0xFF, 0xFF, 0xFF, 0xFF, 0x80, 0x10, 0x93], .done .unit) := by
  decide

/-- V55, V56. -/
theorem test_power : shows (exec .fpup (st0 (ws 4) [])) (fun t => (txBytes t.txlog, t.flashPwr))
      ([0x80, 0, 0x93, 0x11, 0, 0, 0xAB, 0x80, 0x10, 0x93], .up) ∧
    shows (exec .fpdn (st0 (ws 4) [])) (fun t => (txBytes t.txlog, t.flashPwr))
      ([0x80, 0, 0x93, 0x11, 0, 0, 0xB9, 0x80, 0x10, 0x93], .down) := by decide

/-- V57, V79. -/
theorem test_rdsr : shows (exec .rdsr (st0 (ws 4) [.byte 0xFF, .byte 0x02]))
      (fun t => (txBytes t.txlog, t.status, t.txlog.getLast?))
      ([0x80, 0, 0x93, 0x31, 1, 0, 5, 0, 0x80, 0x10, 0x93], some 2, some (.idle .status)) ∧
    shows (exec .rdsr (released [] [])) sent ([], .faulted .csOrder) := by decide

/-- V60: with `VERBOSE`, the status before and after. -/
theorem test_wren_verbose :
    shows (exec .wren { st0 (ws 12) (byteReads [0xFF, 0, 0xFF, 2]) with opts := ⟨true, none, none, 8⟩ })
      (fun t => (t.status, t.reports.map fun p => p.wel, (txBytes t.txlog).length)) (some 2, [false, true], 32) := by
  decide

/-- V59, V61. -/
theorem test_wren_ce : shows (exec .wren (st0 (ws 4) [])) sent
      ([0x80, 0, 0x93, 0x11, 0, 0, 6, 0x80, 0x10, 0x93], .done .unit) ∧
    shows (exec .ce (st0 (ws 4) [])) sent ([0x80, 0, 0x93, 0x11, 0, 0, 0xC7, 0x80, 0x10, 0x93], .done .unit) := by decide

/-- V64, V65. -/
theorem test_be64k : shows (exec (.be64k 0x012345) (st0 (ws 4) [])) sent
      ([0x80, 0, 0x93, 0x11, 3, 0, 0xD8, 1, 0x23, 0x45, 0x80, 0x10, 0x93], .done .unit) ∧
    shows (exec (.be64k 0x1000000) (st0 [] [])) sent ([], .faulted .addr) := by decide

/-- V68, V69, V71. -/
theorem test_pp : shows (exec (.pp 0xFF (.list [0x5A]) 1) (st0 (ws 6) [])) sent
      ([0x80, 0, 0x93, 0x11, 3, 0, 2, 0, 0, 0xFF, 0x11, 0, 0, 0x5A, 0x80, 0x10, 0x93], .done .unit) ∧
    shows (exec (.pp 0xFF (.list [1, 2]) 2) (released [] [])) sent ([], .faulted .pageCross) ∧
    shows (exec (.pp 0x100 (.list [1]) 0) (st0 (ws 4) [])) sent
      ([0x80, 0, 0x93, 0x11, 3, 0, 2, 0, 1, 0, 0x80, 0x10, 0x93], .done .unit) := by decide

/-- V75: the filler sent is 0x00, not 0x77. V77. -/
theorem test_read :
    shows (exec (.read 0x123456 ⟨0, 1⟩ 1) (withBuf [0x77] (ws 6) [.byte 0x3C])) (fun t => (txBytes t.txlog, t.mem))
      ([0x80, 0, 0x93, 0x11, 3, 0, 3, 0x12, 0x34, 0x56, 0x31, 0, 0, 0, 0x80, 0x10, 0x93], [(0, 0x3C)]) ∧
    shows (exec (.read 0 ⟨0, 4⟩ 4) (withBuf [9, 9, 9, 9] (ws 5) [.byte 0x11, .byte 0x22, .negative 0]))
      (fun t => (t.answer, readBytes t.mem 0 4, t.gpioVal)) (raisedAs .readNeg .flash, [0x11, 0x22, 0, 0], some 0) := by
  decide

/-- V109, V110. -/
theorem test_read_checks : shows (exec (.read 0x1000000 ⟨0, 10⟩ 65537) (st0 [] [])) sent ([], .faulted .addr) ∧
    shows (exec (.read 0 ⟨0, 10⟩ 65537) (st0 [] [])) sent ([], .faulted .len) := by decide

/-! Polling, protection, identification. -/

/-- X3: exactly six polls. -/
theorem test_waitBusy :
    shows (exec .waitBusy (st0 (ws 24) (pollReads [(0, 1), (0, 1), (0, 0), (0, 1), (0, 0), (0, 0), (0, 0)])))
      (fun t => (t.status, t.dbcnt, t.reads)) (some 0, 2, [.byte 0, .byte 0]) := by decide

/-- V85, V86. -/
theorem test_waitBusy_bound :
    shows (exec .waitBusy { st0 (ws 12) (pollReads [(0, 1), (0, 1), (0, 1)]) with opts := ⟨false, none, some 3, 8⟩ })
      (fun t => (t.answer, t.gpioVal)) (raisedAs .busyBound .flash, some 0x10) ∧
    shows (exec .waitBusy { st0 (ws 8) (pollReads [(0, 0), (0, 0)]) with opts := ⟨false, none, some 2, 8⟩ })
      (fun t => t.answer) (.done .unit) := by decide

/-- V89. -/
theorem test_disProt : shows (exec .disProt (st0 (ws 20) (pollReads [(0, 1), (0, 0), (0, 0), (0, 0x1C)])))
    (fun t => (t.warnlog, t.status, (txBytes t.txlog).take 11, t.answer))
    ([.protNotCleared 0x1C], some 0x1C, [0x80, 0, 0x93, 0x11, 1, 0, 1, 0, 0x80, 0x10, 0x93], .done .unit) := by decide

/-- X6, X7. -/
theorem test_rdId :
    shows (exec .rdId (st0 (ws 4) (byteReads [0xFF, 0xC2, 0x20, 0x16, 0xFF])))
      (fun t => (t.jedecExtlen, t.jedecExt, t.warnlog)) (some 0xFF, some [], [.jedecFF]) ∧
    shows (exec .rdId (st0 (ws 6) (byteReads [0xFF, 0x1F, 0x84, 1, 5, 0xA1, 0xA2, 0xA3, 0xA4, 0xA5, 0xA6])))
      (fun t => (t.jedecMfr, t.jedecDev, t.jedecExt, t.reads))
      (some 0x1F, some (0x84, 1), some [0xA1, 0xA2, 0xA3, 0xA4, 0xA5], [.byte 0xA6]) := by decide

/-- V92. -/
theorem test_rdId_fails :
    shows (exec .rdId (st0 (ws 5) (byteReads [0xFF, 0x1F, 0x84, 1, 5, 0xA1] ++ [.negative 0])))
      (fun t => (t.answer, (t.jedecMfr, t.jedecExtlen, t.gpioVal), t.jedecExt))
      (raisedAs .readNeg .flash, (some 0x1F, some 5, some 0), none) := by decide

/-- R136: the fields of 0x8E. -/
theorem test_statusReport :
    statusReport 0x8E = ⟨.locked, .bytePage, .success, .asserted, .all, true, false⟩ := by decide

/-! Frames and transactions as instructions. -/

/-- R82, R101, R103 through the frame rows. -/
theorem test_frames : shows (exec (.lfBo [0x06]) (st0 (ws 2) [])) sent ([0x11, 0, 0, 6], .done .unit) ∧
    shows (exec (.lfBx [5, 0]) (st0 (ws 2) [.byte 0xFF, .byte 3])) sent ([0x31, 1, 0, 5, 0], .done (.bytes [0xFF, 3])) ∧
    shows (exec (.lfBits 7 0x5A) (st0 (ws 1) [.byte 0xC3])) (fun t => (txBytes t.txlog, t.bitsIn)) ([0x33, 7, 0x5A], some 0xC3) ∧
    shows (exec (.lfDiv 119) (st0 (ws 1) [])) (fun t => (txBytes t.txlog, t.clkdiv)) ([0x86, 0x77, 0], some 119) := by decide

/-- V62, V68, V75 through the SPI rows. -/
theorem test_spiRows :
    shows (exec (.spiBlockErase64K 0x010000) (st0 (ws 4) [])) (fun t => txBytes t.txlog)
      [0x80, 0, 0x93, 0x11, 3, 0, 0xD8, 1, 0, 0, 0x80, 0x10, 0x93] ∧
    shows (exec (.spiPageProgram 0x0000FF [7]) (st0 (ws 6) [])) (fun t => txBytes t.txlog)
      [0x80, 0, 0x93, 0x11, 3, 0, 2, 0, 0, 0xFF, 0x11, 0, 0, 7, 0x80, 0x10, 0x93] ∧
    shows (exec (.spiReadData 0x123456 1) (st0 (ws 6) [.byte 0x3C])) (fun t => t.answer) (.done (.bytes [0x3C])) := by decide

/-! The reference host. -/

/-- X1, V93 to V97. -/
theorem test_erasePlan : erasePlan 0x12345 0x20000 = [0x010000, 0x020000, 0x030000] ∧ erasePlan 0 0 = [] ∧
    erasePlan 5 0 = [0] ∧ erasePlan 0xFFFF 2 = [0, 0x10000] ∧ erasePlan 0xFF8000 0x8000 = [0xFF0000] := by decide

/-- X2; V102. -/
theorem test_windows : [0, 10, 255, 0x1F0].map pageWindow = [256, 246, 1, 16] ∧
    readChunks 300 0x10 300 = [(0x10, 256), (0x110, 44)] := by decide

/-- R162. -/
theorem test_exitCode : [HostStatus.running, .userError .readSource, .hardwareError, .verifyError 0].map exitCode =
    [some 0, some 1, some 2, some 3] := by decide

/-- A run of the host at one state of R146. -/
def runAt (p : HostPhase) (s : State) (fails : Option Nat) (u : HostStatus) : HostRun := ⟨s, [p], [], [], fails, u⟩

/-- R151, R159: CDONE is bit 6 of `GPIO_IN_LO`. -/
theorem test_hostReports :
    (hostStep .reportConfigDone (runAt .init { st0 [] [] with gpioInLo := some 0x40 } none .running)).reports =
      [.configDone (some true)] ∧
    (hostStep .logFinalConfigDone (runAt .verified { st0 [] [] with gpioInLo := some 0xBF } none .running)).reports =
      [.finalConfigDone (some false)] := by decide

/-- R158, R162: a failed sink write is a UserError and writes nothing out. -/
theorem test_userError :
    (hostStep (.sink ⟨0, 2⟩ 2) (runAt .broughtUp (st0 [] []) (some 0) .running)).status = .userError .writeSink ∧
    (hostStep (.sink ⟨0, 2⟩ 2) (runAt .broughtUp (st0 [] []) (some 0) .running)).sunk = [] ∧
    (hostStep (.sink ⟨0, 2⟩ 2) (runAt .broughtUp (st0 [] []) none .running)).sunk = [0, 0] := by decide

/-- R146, R159, R160: the orderly end of a verify error, and the end of an options error. -/
theorem test_finishRun :
    (finishRun (runAt .written { st0 (ws 6) [.byte 0x40] with ctrls := List.replicate 3 (.success 0) } none
      (.verifyError 256))).status = .verifyError 256 ∧
    (finishRun (runAt .written { st0 (ws 6) [.byte 0x40] with ctrls := List.replicate 3 (.success 0) } none
      (.verifyError 256))).entered = [.written, .poweredDown, .closed] ∧
    finishRun (runAt .init State.reset none (.userError .checkOptions)) =
      runAt .init State.reset none (.userError .checkOptions) := by decide

/-- R160, R162: a teardown whose first write fails after a verify error ends in the abort path (log 31). -/
theorem test_abortInTeardown :
    (finishRun (runAt .written { st0 [.count 0 0] [.empty] with ctrls := List.replicate 2 (.success 0) } none
      (.verifyError 256))).entered = [.written, .aborted] ∧
    (exitCode (finishRun (runAt .written { st0 [.count 0 0] [.empty] with ctrls := List.replicate 2 (.success 0) } none
      (.verifyError 256))).status) = some 2 := by decide

/-! Witnesses: states and operands that meet the hypotheses of the obligations, by their names. -/

theorem released_not_inReset (w : List WriteAns) (r : List ReadAns) : ¬InReset (released w r) := by
  rintro ⟨g, h1, h2⟩
  cases h1
  exact absurd h2 (by decide)

theorem witness_ResetRegisters : (Instr.rdsr ≠ .abortReq ∧ ∀ slow, Instr.rdsr ≠ .openReq slow) ∧
    Reg.jedecExt ∈ [Reg.latSaved, .jedecExt] := by decide

theorem witness_InvariantKept : ∃ s t : State, Inv s ∧ step s = .next t ∧ t.gpioVal = some 0x90 :=
  ⟨{ st0 (ws 1) [] with queue := [.request .release] }, _, ⟨rfl, (st0_inv [] []).chipSelect, (st0_inv [] []).direction,
    (st0_inv [] []).openSession, (st0_inv [] []).captured, nofun, nofun, rfl, nofun⟩, rfl, rfl⟩

theorem witness_StepRunsInstruction : decode [0x81] = .ok .lfGrdLow [] ∧ decode [0x81, 0x83] = .ok .lfGrdLow [0x83] ∧
    decode [0x13] = .bad (.opcode 0x13) ∧ State.reset.queue = [] ∧
    (State.reset.withFetchWord 8 0x81).queue = [.bytes [0x81]] := by decide

/-- Every clause: a request outside its session, a done one, a raised one. -/
theorem witness_SessionRule : (failedState [] []).session ≠ .opened ∧ (st0 [] []).session ≠ .closed ∧
    shows (exec (.openReq false) (closedState (List.replicate 6 (.success 16)) (ws 2))) (fun t => t.answer) (.done .unit) ∧
    shows (exec .deselect (st0 [.count 2 2] [])) (fun t => t.answer) (raisedAs .shortWrite .bus) ∧
    shows (exec .closeReq (parked (List.replicate 3 (.success 0)))) (fun t => t.answer) (.done .unit) ∧
    shows (exec .release (st0 (ws 1) [])) (fun t => t.answer) (.done .unit) ∧
    shows (exec .select (released [] [])) (fun t => t.answer) (.faulted .csOrder) ∧
    shows (exec .abortReq State.reset) (fun t => t.session) .closed := by decide

theorem witness_FailedSession : (failedState [] []).session = .failed ∧
    shows (exec .abortReq (failedState [.empty] [.success 0, .success 0])) (fun t => t.answer) (.done .unit) ∧
    shows (exec .rdsr (failedState [] [])) (fun t => t.err) (some ⟨.hardwareError, .shortWrite, .engine⟩) ∧
    shows (exec (.openReq true) { closedState (List.replicate 6 (.success 16)) (ws 2) with
      err := some ⟨.hardwareError, .ctrlFail, .engine⟩ }) (fun t => t.answer) (.done .unit) := by decide

theorem witness_FaultChangesNothing : shows (exec (.setGpio 0x10 0xFF) (st0 [] [])) (fun t => t.answer)
    (.faulted .gpioDir) := by decide

/-- For RaiseLatchesError and RaiseEndsLog: one raise of each cause. -/
theorem witness_Raises :
    shows (exec (.openReq false) (closedState [.failure] [])) (fun t => t.answer) (raisedAs .ctrlFail .engine) ∧
    shows (exec .deselect (st0 [.count 0 0] [])) (fun t => t.answer) (raisedAs .shortWrite .bus) ∧
    shows (exec .rdsr (st0 (ws 3) [.negative 0])) (fun t => t.answer) (raisedAs .readNeg .flash) ∧
    shows (exec .rdGpioL { st0 (ws 1) [.empty] with opts := ⟨false, some 1, none, 8⟩ }) (fun t => t.answer)
      (raisedAs .pollBound .engine) ∧
    shows (exec .waitBusy { st0 (ws 4) [.byte 0, .byte 1] with opts := ⟨false, none, some 1, 8⟩ }) (fun t => t.answer)
      (raisedAs .busyBound .flash) := by decide

theorem witness_FirstFailureRaises : ∃ t evs, exec .select (st0 [.count 0 0] []) = .next t ∧
    t.txlog = (st0 [.count 0 0] []).txlog ++ evs ∧ evs.length = 1 := ⟨_, [.write [0x80, 0x00, 0x93] 0 0], rfl, rfl, rfl⟩

/-- For LogsOnlyGrow, RegisterFrame and MemoryFrame: requests that end in a next state; a register and an address
outside what they may write. -/
theorem witness_Frames :
    shows (exec .wren (st0 (ws 4) [])) (fun t => (t.answer, t.opts.verbose)) (.done .unit, false) ∧
    Reg.jedecMfr ∉ writeSet .wren ∧ Reg.jedecMfr ≠ .txlog ∧
    shows (exec (.xfer 0x31 ⟨4, 2⟩ 2) (st0 (ws 2) [.byte 1, .byte 2])) (fun t => t.answer) (.done .unit) ∧
    ¬((storeRange (.xfer 0x31 ⟨4, 2⟩ 2)).1 ≤ 3 ∧ 3 < (storeRange (.xfer 0x31 ⟨4, 2⟩ 2)).1 + (storeRange (.xfer 0x31 ⟨4, 2⟩ 2)).2) ∧
    ¬((storeRange (.xfer 0x31 ⟨4, 2⟩ 2)).1 ≤ 6 ∧ 6 < (storeRange (.xfer 0x31 ⟨4, 2⟩ 2)).1 + (storeRange (.xfer 0x31 ⟨4, 2⟩ 2)).2) := by
  decide

theorem witness_FramesAndResponses : (∃ t evs, exec .rdGpioL (st0 (ws 1) [.byte 0x40]) = .next t ∧
      t.answer = .done (.byte 0x40) ∧ t.txlog = (st0 (ws 1) [.byte 0x40]).txlog ++ evs) ∧
    ∃ t, exec .abortReq State.reset = .next t ∧ t.answer = .done .unit ∧ t.txlog = State.reset.txlog ++ [] :=
  ⟨⟨_, [wrote [0x81], .read (.byte 0x40)], rfl, rfl, rfl⟩, _, rfl, rfl, rfl⟩

theorem witness_FlashLines : layerOf .ce = .flash ∧ shows (exec .ce (st0 (ws 4) [])) (fun t => t.answer) (.done .unit) ∧
    shows (exec .ce (st0 [.full, .count 0 0] [])) (fun t => t.answer) (raisedAs .shortWrite .flash) := by decide

theorem witness_HostReads : hostRead .gpioVal (st0 [] []) = .value (.byte 0x10) ∧
    hostRead .status (st0 [] []) = .faulted .undefined ∧ (st0 [] []).gpioInLo = none ∧
    ({ st0 [] [] with gpioInLo := some 0x40 } : State).gpioInLo = some 0x40 := by decide

theorem witness_DecodeEncode : (Instr.lfBits 7 0xFF).wf = true ∧ encode (.lfBits 7 0xFF) = some [0x33, 7, 0xFF] ∧
    (responseBytes (.lfBits 7 0xFF)).isSome = true ∧ (Instr.spiPageProgram 0xFFFFFF [1]).wf = true ∧
    encode (.spiPageProgram 0xFFFFFF [1]) = some [2, 0xFF, 0xFF, 0xFF, 1] := by decide

/-- For EncodeDecode and SplitFrames. -/
theorem witness_EncodeDecode : decode [0x80, 0x10, 0x93, 0x81] = .ok (.lfGset 0x10) [0x81] ∧
    (responseBytes (.lfGset 0x10)).isSome = true ∧
    ∀ f ∈ [Instr.lfBo [6], .lfDiv 119, .lfGrdHigh], f.wf = true ∧ (responseBytes f).isSome = true := by decide

theorem witness_ReservedOpcodes : (0x82 : Byte) ∉ [(0x11 : Byte), 0x31, 0x33, 0x80, 0x81, 0x83, 0x8B, 0x86, 0x06, 0x05,
    0x01, 0x02, 0xD8, 0xC7, 0xB9, 0xAB, 0x9F, 0x03, 0xFF] := by decide

theorem witness_OpenCompletes : (closedState (List.replicate 6 (.success 16)) (ws 2)).session = .closed ∧
    (closedState (List.replicate 6 (.success 16)) (ws 2)).ctrls = .success 16 :: .success 16 :: .success 16 ::
      .success 16 :: .success 16 :: .success 16 :: [] ∧
    (closedState (List.replicate 6 (.success 16)) (ws 2)).writes = .full :: .full :: [] := ⟨rfl, rfl, rfl⟩

theorem witness_OpenLeaves : ∃ t, exec (.openReq false) (closedState (List.replicate 6 (.success 16)) (ws 2)) = .next t ∧
    t.answer = .done .unit := ⟨_, rfl, rfl⟩

/-- The first and the last control call, then each of the two writes. -/
theorem witness_OpenStopsAtFirstFailure :
    (closedState [.failure] []).ctrls = ([] : List Byte).map .success ++ .failure :: [] ∧
    (closedState (List.replicate 5 (.success 16) ++ [.failure]) []).ctrls =
      (List.replicate 5 (16 : Byte)).map .success ++ .failure :: [] ∧
    (closedState (List.replicate 6 (.success 16)) [.count 0 0]).ctrls =
      (List.replicate 6 (16 : Byte)).map .success ++ [] ∧
    (closedState (List.replicate 6 (.success 16)) [.count 0 0]).writes = .count 0 0 :: [] ∧
    (closedState (List.replicate 6 (.success 16)) [.full, .count (-1) 2]).writes = .full :: .count (-1) 2 :: [] ∧
    (0 : Int) ≠ 1 ∧ (-1 : Int) ≠ 3 := by decide

/-- For CloseCompletes and CloseRefusesOrRaises. -/
theorem witness_Close : (parked [.success 0, .success 0, .success 0]).session = .opened ∧
    (parked []).gpioVal = some 0x90 ∧ (parked []).flashPwr = .down ∧ (parked []).latSaved = some 16 ∧
    (parked [.success 0, .success 0, .success 0]).ctrls = .success 0 :: .success 0 :: .success 0 :: [] ∧
    (st0 [] []).session = .opened ∧ (st0 [] []).gpioVal ≠ some 0x90 ∧
    (parked [.success 0, .success 0, .failure]).ctrls = ([0, 0] : List Byte).map .success ++ .failure :: [] ∧
    shows (exec .closeReq (parked [.failure])) (fun t => t.answer) (raisedAs .ctrlFail .engine) := by decide

theorem witness_AbortTeardown : (failedState [.byte 1, .empty] [.success 0, .failure]).handle = true ∧
    (failedState [] []).latCaptured = true ∧ (failedState [] []).latSaved = some 16 ∧
    (failedState [.byte 1, .empty] [.success 0, .failure]).reads = byteReads [1] ++ .empty :: [] ∧
    (∀ b, ReadAns.empty ≠ .byte b) ∧ [(1 : Byte)].length ≤ (failedState [] []).opts.fuel ∧
    (failedState [] [.success 0, .failure]).ctrls = .success 0 :: .failure :: [] ∧
    ({ failedState [] [] with latCaptured := false } : State).latCaptured = false ∧ State.reset.handle = false ∧
    (failedState (byteReads (List.replicate 9 1)) []).reads = byteReads (List.replicate 9 1) ++ [] ∧
    (List.replicate 9 (1 : Byte)).length = (failedState [] []).opts.fuel + 1 := by
  refine ⟨rfl, rfl, rfl, rfl, nofun, by decide, rfl, rfl, rfl, rfl, by decide⟩

theorem witness_AfterCloseOrAbort :
    shows (exec .closeReq (parked (List.replicate 3 (.success 0)))) (fun t => (t.answer, t.session, t.handle, t.latCaptured))
      (.done .unit, .closed, false, false) ∧
    shows (exec .ce State.reset) (fun t => t.answer) (.faulted .session) := by decide

/-- For SendCompletes and ShortWriteRaises: one byte and 65536 bytes. -/
theorem witness_Send : (∃ bs : Bytes, bs.length = 65536) ∧ (st0 (ws 2) []).writes = .full :: .full :: [] ∧
    dataBytes (.list [6]) (st0 [] []).mem = [6] ∧ dataBytes (.buffer ⟨0, 1⟩) (withBuf [6] [] []).mem = [6] ∧
    [(6 : Byte), 7].take (dataCount (some 1) [6, 7]) = [6] ∧
    (st0 [.count 2 1] []).writes = .count 2 1 :: [] ∧ (2 : Int) ≠ 3 ∧
    (st0 [.full, .count (-1) 1] []).writes = .full :: .count (-1) 1 :: [] := by
  refine ⟨⟨List.replicate 65536 0, List.length_replicate⟩, ?_⟩
  decide

theorem witness_EmptyTransfers : dataBytes (.list []) State.reset.mem = [] ∧
    dataBytes (.buffer ⟨7, 0⟩) State.reset.mem = [] := by decide

/-- For XferCompletes and XferPartial: the whole buffer, one byte after empty polls and one without; an error at the first
and after the last but one byte. -/
theorem witness_Xfer : Memory.wf (withBuf [5, 0] [] []).mem = true ∧
    (withBuf [5, 0] (ws 2) [.empty, .byte 1, .byte 2]).reads = delayedReads [(1, 1), (0, 2)] ++ [] ∧
    (∀ d ∈ [(1, (1 : Byte)), (0, 2)], d.1 ≤ (withBuf [5, 0] [] []).opts.fuel) ∧
    (withBuf [5, 0] [] []).opts.pollBound = none ∧
    (withBuf [5, 0] (ws 2) []).writes = .full :: .full :: [] ∧ bufCount none ⟨0, 2⟩ = 2 ∧
    (st0 [] [.negative 0]).reads = byteReads [] ++ .negative 0 :: [] ∧ ([] : Bytes).length < 1 ∧
    (st0 [] [.byte 1, .negative 0]).reads = byteReads [1] ++ .negative 0 :: [] ∧ [(1 : Byte)].length < 2 := by decide

/-- What fits: with a bound of 2 one empty poll and one or two status polls, with none 8 and 9 (fuel 8). -/
theorem witness_Fit : PollsFit ⟨false, some 2, some 2, 0⟩ 1 ∧ PollsFit ⟨false, some 0, none, 0⟩ 0 ∧
    PollsFit (st0 [] []).opts 8 ∧ BusyFit ⟨false, none, some 2, 0⟩ 2 ∧ BusyFit (st0 [] []).opts 9 :=
  ⟨.inr (by decide), .inl rfl, Nat.le_refl 8, Nat.le_refl 2, Nat.le_refl 9⟩

/-- No empty poll and one; a bound of 0 and of 2; no bound. -/
theorem witness_ReceiveLoop : (st0 (ws 1) [.byte 5]).reads = List.replicate 0 .empty ++ .byte 5 :: [] ∧
    (st0 [] [.empty, .byte 5]).reads = List.replicate 1 .empty ++ .byte 5 :: [] ∧
    (st0 [] [.empty, .negative 3]).reads = List.replicate 1 .empty ++ .negative 3 :: [] ∧
    0 + 1 = max 0 1 ∧ 1 + 1 = max 2 1 ∧ (st0 [] [.empty, .empty]).reads = List.replicate (1 + 1) .empty ++ [] ∧
    ({ st0 [] [] with opts := ⟨false, some 2, none, 8⟩ } : State).opts.pollBound = some 2 ∧
    (st0 [] []).opts.pollBound = none ∧
    (st0 [] (List.replicate 9 .empty)).reads = List.replicate ((st0 [] []).opts.fuel + 1) .empty ++ [] :=
  ⟨rfl, rfl, rfl, rfl, rfl, rfl, rfl, rfl, rfl⟩

/-- For BitTransfer, ReadGpio and ClockFrames: one answered write and one byte; one bit, eight bits and nine. -/
theorem witness_OneWrite : (st0 (ws 1) [.byte 0x40]).session = .opened ∧ (st0 (ws 1) [.byte 0x40]).writes = .full :: [] ∧
    (st0 (ws 1) [.byte 0x40]).reads = .byte 0x40 :: [] ∧ 1 ≤ 1 ∧ 8 ≤ 8 ∧ 8 < 9 ∧ (1 : BitVec 16) ≠ 0 ∧
    (1 : BitVec 16) ≠ 119 := by decide

/-- For SetGpioCompletes, CsOrderCheck, GpioShortWrite and LineTable: both ways a write is admitted, and the line
states. -/
theorem witness_Gpio : (0x90 : Byte).getLsbD 4 = true ∧ (0x01 : Byte).getLsbD 7 = false ∧ InReset (st0 [] []) ∧
    ¬InReset (released [] []) ∧ (st0 [.count 2 2] []).writes = .count 2 2 :: [] ∧ (2 : Int) ≠ 3 ∧
    ({ st0 [] [] with gpioVal := none } : State).gpioVal = none ∧ (released [] []).gpioVal = some 0x90 ∧
    (st0 [] []).gpioVal = some 0x10 ∧
    shows (exec .deselect (st0 (ws 1) [])) (fun t => t.answer) (.done .unit) ∧
    shows (exec .release (st0 (ws 1) [])) (fun t => t.answer) (.done .unit) :=
  ⟨rfl, rfl, st0_inReset _ _, released_not_inReset _ _, rfl, by decide, rfl, rfl, rfl, by decide, by decide⟩

/-- The first length, buffer and count past each check. -/
theorem witness_TransferFaultOrder : (st0 [] []).session = .opened ∧ (0x13 : Byte) ≠ 0x11 ∧ (0x11 : Byte) ≠ 0x31 ∧
    (∃ bs : Bytes, 65536 < (dataBytes (.list bs) State.reset.mem).length) ∧ 65536 < 65537 ∧
    (⟨0, 1⟩ : Buf).len < 2 ∧ (dataBytes (.list [1]) State.reset.mem).length < 2 ∧
    (∃ bs : Bytes, 65537 ≤ (dataBytes (.list bs) State.reset.mem).length) ∧ (0x92 : Byte) ≠ 0x93 :=
  ⟨rfl, by decide, by decide, ⟨List.replicate 65537 0, by rw [dataBytes, List.length_replicate]; decide⟩, by decide, by decide, by decide,
    ⟨List.replicate 65537 0, by rw [dataBytes, List.length_replicate]⟩, by decide⟩

/-- For FixedTransactions, ReadStatus and WriteEnableVerbose. -/
theorem witness_Transactions : (st0 (ws 4) [.byte 0, .byte 2]).session = .opened ∧ InReset (st0 (ws 4) [.byte 0, .byte 2]) ∧
    (st0 (ws 4) [.byte 0, .byte 2]).writes = List.replicate 4 .full ++ [] ∧
    (st0 (ws 4) [.byte 0, .byte 2]).reads = .byte 0 :: .byte 2 :: [] ∧ (st0 [] []).opts.verbose = false ∧
    0xFFFFFF < 0x1000000 ∧ (st0 (ws 12) []).writes = List.replicate 12 .full ++ [] ∧
    (st0 [] (pollReads [(0, 0), (0, 2)])).reads = pollReads [(0, 0), (0, 2)] ++ [] ∧
    ({ st0 [] [] with opts := ⟨true, none, none, 8⟩ } : State).opts.verbose = true :=
  ⟨rfl, st0_inReset _ _, rfl, rfl, rfl, by decide, rfl, rfl, rfl⟩

/-- For AddressRange, PageProgram, PageBoundary and FlashFaultOrder: the last good and the first bad value of each
check. -/
theorem witness_Addressed : InReset (st0 (ws 6) []) ∧ 0x1000000 ≤ 0x1000000 ∧ 0xFFFFFF < 0x1000000 ∧
    0xFFFFFF % 256 + 1 ≤ 256 ∧ 256 < 0xFFFFFF % 256 + 2 ∧ 1 ≤ (dataBytes (.list [1]) State.reset.mem).length ∧
    2 ≤ (dataBytes (.list [1, 2]) State.reset.mem).length ∧ (dataBytes (.list [1]) State.reset.mem).length < 2 ∧
    (st0 (ws 6) []).writes = List.replicate 6 .full ++ [] ∧ (st0 (ws 4) []).writes = List.replicate 4 .full ++ [] ∧
    (0xFFFFFF : FlashAddr).toNat % 256 + [(1 : Byte)].length ≤ 256 ∧
    256 < (0xFFFFFF : FlashAddr).toNat % 256 + [(1 : Byte), 2].length ∧ 65536 < 65537 ∧
    (⟨0, 1⟩ : Buf).len < 2 ∧ ¬InReset (released [] []) :=
  ⟨st0_inReset _ _, by decide, by decide, by decide, by decide, by decide, by decide, by decide, rfl, rfl, by decide,
    by decide, by decide, by decide, released_not_inReset _ _⟩

/-- For ReadData and ReadDataPartial: no byte, some bytes, and an error before the last. -/
theorem witness_ReadData : Memory.wf (withBuf [9, 9] [] []).mem = true ∧ InReset (withBuf [9, 9] [] []) ∧
    (withBuf [9, 9] (ws 6) [.byte 1, .byte 2]).reads = byteReads [1, 2] ++ [] ∧
    (withBuf [9, 9] (ws 6) []).writes = List.replicate (if 2 = 0 then 4 else 6) .full ++ [] ∧
    (st0 (ws 4) []).writes = List.replicate (if 0 = 0 then 4 else 6) .full ++ [] ∧
    (st0 [] []).reads = byteReads [] ++ [] ∧ 65536 ≤ 65536 ∧
    (withBuf [9, 9] (ws 5) [.byte 1, .negative 0]).reads = byteReads [1] ++ .negative 0 :: [] ∧
    (withBuf [9, 9] (ws 5) []).writes = List.replicate 5 .full ++ [] :=
  ⟨by decide, ⟨0x10, rfl, rfl⟩, rfl, rfl, rfl, rfl, by decide, rfl, rfl⟩

/-- For WaitBusyReturns, DisableProtection, WaitBusyBound and WaitBusyHangs: two and three polls that end with the first
quiet pair, and polls that show none, up to the bound and for ever. -/
theorem witness_Polls : hasQuietPair [(0, 0), (0, 2)] = true ∧ hasQuietPair [((0 : Byte), (0 : Byte))] = false ∧
    hasQuietPair [(0, 1), (0, 0), (0, 0)] = true ∧ hasQuietPair [(0, 1), (0, 0)] = false ∧
    [((0 : Byte), (0 : Byte)), (0, 2)].getLast?.map Prod.snd = some 2 ∧
    (st0 (ws 8) []).writes = List.replicate (4 * 2) .full ++ [] ∧
    (st0 [] (pollReads [(0, 0), (0, 2)])).reads = pollReads [(0, 0), (0, 2)] ++ [] ∧
    [((0 : Byte), (0 : Byte)), (0, 2)].length ≤ (st0 [] []).opts.fuel + 1 ∧ (st0 [] []).opts.busyBound = none ∧
    ({ st0 [] [] with opts := ⟨false, none, some 2, 8⟩ } : State).opts.busyBound = some 2 ∧
    [((0 : Byte), (1 : Byte)), (0, 0)].length = max 2 1 ∧ [((0 : Byte), (0 : Byte))].length = max 0 1 ∧
    hasQuietPair (List.replicate 9 (0, 1)) = false ∧
    (List.replicate 9 ((0 : Byte), (1 : Byte))).length = (st0 [] []).opts.fuel + 1 ∧
    (st0 (ws 16) []).writes = List.replicate (4 * (2 + 2)) .full ++ [] := by decide

/-- For JedecNoExtension and JedecExtension: lengths 0x00, 0xFF, 1 and 254. -/
theorem witness_Jedec : (st0 (ws 4) (byteReads [0, 1, 2, 3, 0])).reads = byteReads [0, 1, 2, 3, 0] ++ [] ∧
    (st0 (ws 4) []).writes = List.replicate 4 .full ++ [] ∧ (st0 (ws 6) []).writes = List.replicate 6 .full ++ [] ∧
    (st0 [] (byteReads [0, 1, 2, 3, 1] ++ byteReads [9])).reads = byteReads [0, 1, 2, 3, 1] ++ byteReads [9] ++ [] ∧
    (1 : Byte) ≠ 0x00 ∧ (1 : Byte) ≠ 0xFF ∧ [(9 : Byte)].length = (1 : Byte).toNat ∧
    (0xFE : Byte) ≠ 0xFF ∧ (List.replicate 254 (9 : Byte)).length = (0xFE : Byte).toNat :=
  ⟨rfl, rfl, rfl, rfl, by decide, by decide, rfl, by decide, List.length_replicate⟩

/-- For ErasePlan, WriteChunks and VerifyChunks; V98: a range that leaves the address space. -/
theorem witness_Sequencer : 0xFF8000 + 0x8000 ≤ 0x1000000 ∧ (0x1000000 : Nat) ∈ erasePlan 0xFF8000 0x10000 ∧
    (writeChunks 4 254 [1, 2, 3, 4])[0]? = some (254, [1, 2]) ∧ 0 + 1 < (writeChunks 4 254 [1, 2, 3, 4]).length ∧
    (verifyChunks 2 254 [1, 2])[0]? = some (254, [1, 2]) ∧ (readChunks 257 0 257)[1]? = some (256, 1) := by decide

end Sys2Proof.Tests
end

section
/-! The addressed flash requests: the checks in front of their transactions, and the one fault a transaction itself can
end with. -/

namespace Sys2Proof.Machine

/-! How a request ends. -/

@[simp] theorem conclude_faulted {α : Type} (l : Layer) (ret : α → Result) (f : FCode) (s : State) :
    conclude l ret (.faulted f s) = .next (s.reply (.faulted f)) := rfl

/-- The answer is a fault only where the pseudocode ended with that fault. -/
theorem eq_faulted_of_conclude_answer {α : Type} {l : Layer} {ret : α → Result} {r : Res α} {t : State} {f : FCode}
    (h : conclude l ret r = .next t) (ha : t.answer = .faulted f) : ∃ u, r = .faulted f u := by
  cases r with
  | ok a u => cases h; cases ha
  | raised c u => cases h; cases ha
  | faulted g u => cases h; cases ha; exact ⟨u, rfl⟩
  | hung => cases h

/-- A run does not fault. -/
theorem Run.ne_faulted {α : Type} {W : List Reg} {rng : Nat × Nat} {s u : State} {f : FCode} {r : Res α}
    {Q : α → State → List LinkEvent → Prop} {Z : Cause → State → Prop} (h : Run W rng s r Q Z) :
    r ≠ .faulted f u := by
  rintro rfl
  exact h

/-! The addressed requests as instructions (R132 to R134). -/

theorem exec_be64k (a : Nat) (s : State) :
    exec (.be64k a) s = conclude .flash (fun _ => .unit) (be64kOp a s) := rfl

theorem exec_pp (a n : Nat) (data : Data) (s : State) :
    exec (.pp a data n) s = conclude .flash (fun _ => .unit) (ppOp a (dataBytes data s.mem) n s) := rfl

theorem exec_read (a n : Nat) (buf : Buf) (s : State) :
    exec (.read a buf n) s = conclude .flash (fun _ => .unit) (readOp a (.host buf) n s) := rfl

/-! Their checks, in the order of R173. -/

theorem be64kOp_addr {a : Nat} {s : State} (hs : s.session = .opened) (ha : Config.addrLimit ≤ a) :
    be64kOp a s = .faulted .addr s := by
  rw [be64kOp, if_neg (by simp [hs]), if_pos ha]

theorem ppOp_addr {a : Nat} {s : State} (data : Bytes) (n : Nat) (hs : s.session = .opened)
    (ha : Config.addrLimit ≤ a) : ppOp a data n s = .faulted .addr s := by
  rw [ppOp, if_neg (by simp [hs]), if_pos ha]

theorem readOp_addr {a : Nat} {s : State} (x : XferBuf) (n : Nat) (hs : s.session = .opened)
    (ha : Config.addrLimit ≤ a) : readOp a x n s = .faulted .addr s := by
  rw [readOp, if_neg (by simp [hs]), if_pos ha]

theorem crossesPage_iff (a n : Nat) : crossesPage a n = true ↔ 256 < a % 256 + n := by
  simp [crossesPage]

/-- Past the session, address and count checks only the page decides. -/
theorem ppOp_eq_of_checks {a n : Nat} {data : Bytes} {s : State} (hs : s.session = .opened) (ha : a < Config.addrLimit)
    (hn : n ≤ data.length) :
    ppOp a data n s = if crossesPage a n then .faulted .pageCross s else sPageProgram (addrOf a) data n s := by
  rw [ppOp, if_neg (by simp [hs]), if_neg (by omega), if_neg (by omega)]

/-! Faults inside a transaction. -/

/-- A transaction in an open session, around a body that cannot fault, is refused only by the chip-select order of its
`SELECT` (R114, R124). -/
theorem txn_faulted_csOrder {α : Type} {rng : Nat × Nat} {body : State → Res α} {s u : State} {f : FCode}
    (hs : s.session = .opened)
    (hb : ∀ t, t.session = .opened → Run [] rng t (body t) (fun _ _ evs => Framed evs) AnyRaise)
    (h : txn body s = .faulted f u) : f = .csOrder := by
  by_cases hc : csOrderOk Config.gpioSelect s = true
  · have hrun := txn_run rng body s (fun _ => True) hs hc fun t ht =>
      (hb t ht).weaken (fun _ _ _ _ hq => ⟨hq, trivial⟩) (fun _ _ _ _ hz => hz)
    exact absurd h hrun.ne_faulted
  · rw [txn_fault body s hs (by simpa using hc)] at h
    cases h
    rfl

/-- The SPI header of an addressed command is one frame. -/
theorem spiHeader_run (rng : Nat × Nat) (op : Byte) (a : FlashAddr) (s : State) (hs : s.session = .opened) :
    Run [] rng s (bsendAll (spiHeader op a) s) Frames AnyRaise :=
  (bsendAll_run [] rng _ s hs (by simp [spiHeader, addrBytes, Config.maxFrame])).weaken
    (fun _ _ _ _ h => h.2.1) (fun _ _ _ _ _ => trivial)

theorem sPageProgram_faulted_csOrder {a : FlashAddr} {data : Bytes} {n : Nat} {s u : State} {f : FCode}
    (hs : s.session = .opened) (hn : n ≤ data.length) (hl : n ≤ Config.maxFrame)
    (h : sPageProgram a data n s = .faulted f u) : f = .csOrder := by
  refine txn_faulted_csOrder (rng := (0, 0)) hs (fun t ht => (spiHeader_run (0, 0) 0x02 a t ht).bind ?_) h
  intro _ v e1 hfoot hheader
  have hv : v.session = .opened := (hfoot.session (by simp)).trans ht
  exact (bsendOp_run [] (0, 0) data n v hv hn hl).weaken (fun _ _ _ _ hdata => hheader.append hdata.2.1)
    (fun _ _ _ _ _ => trivial)

/-! The obligations. -/

/-- Settles O44: the address check comes right after the session check and looks at no other operand (R59, R173). -/
theorem addressRange : Obligations.AddressRange := by
  intro s a hs ha
  refine ⟨?_, fun data n => ?_, fun buf n => ?_⟩
  · rw [exec_be64k, be64kOp_addr hs ha, conclude_faulted]
  · rw [exec_pp, ppOp_addr _ n hs ha, conclude_faulted]
  · rw [exec_read, readOp_addr _ n hs ha, conclude_faulted]

/-- Settles O46: past the earlier checks the page alone decides (R56), and inside its page the program is a transaction,
whose only fault is `F_CS_ORDER`. -/
theorem pageBoundary : Obligations.PageBoundary := by
  intro s a n data hs ha hn
  refine ⟨fun hcross => ?_, fun hfit t hexec hanswer => ?_⟩
  · rw [exec_pp, ppOp_eq_of_checks hs ha hn, if_pos ((crossesPage_iff a n).mpr hcross), conclude_faulted]
  · rw [exec_pp] at hexec
    obtain ⟨u, hpp⟩ := eq_faulted_of_conclude_answer hexec hanswer
    rw [ppOp_eq_of_checks hs ha hn, if_neg (by rw [crossesPage_iff]; omega)] at hpp
    have hl : n ≤ Config.maxFrame := by simp only [Config.maxFrame]; omega
    exact absurd (sPageProgram_faulted_csOrder hs hn hl hpp) (by simp)

end Sys2Proof.Machine
end

section
/-! Transfers of no bytes: the session and operand checks, then nothing (R102). -/

namespace Sys2Proof.Machine

@[simp] theorem conclude_ok {α : Type} (l : Layer) (ret : α → Result) (a : α) (s : State) :
    conclude l ret (.ok a s) = .next (s.reply (.done (ret a))) := rfl

/-! The transfers as instructions (R101, R103, R120, R121). -/

theorem exec_send (op : Byte) (data : Data) (s : State) :
    exec (.send op data) s = conclude .engine (fun _ => .unit) (sendOp op (dataBytes data s.mem) s) := rfl

theorem exec_xfer (op : Byte) (buf : Buf) (n : Nat) (s : State) :
    exec (.xfer op buf n) s = conclude .engine (fun _ => .unit) (xferOp op (.host buf) n s) := rfl

theorem exec_bsend (data : Data) (n : Option Nat) (s : State) :
    exec (.bsend data n) s =
      conclude .bus (fun _ => .unit) (bsendOp (dataBytes data s.mem) (dataCount n (dataBytes data s.mem)) s) := rfl

theorem exec_bxfer (buf : Buf) (n : Option Nat) (s : State) :
    exec (.bxfer buf n) s = conclude .bus (fun _ => .unit) (bxferOp (.host buf) (bufCount n buf) s) := rfl

/-! What is left of each operation for no bytes. The length and the buffer check cannot fail there. -/

theorem sendOp_nil (op : Byte) (s : State) :
    sendOp op [] s = if s.session ≠ .opened then .faulted .session s
      else if op ≠ 0x11 then .faulted .linkOp s else .ok () s := by
  rw [sendOp, List.length_nil, if_neg (c := Config.maxFrame < 0) (Nat.not_lt_zero _), if_pos rfl]

theorem xferOp_zero (op : Byte) (x : XferBuf) (s : State) :
    xferOp op x 0 s = if s.session ≠ .opened then .faulted .session s
      else if op ≠ 0x31 then .faulted .linkOp s else .ok [] s := by
  rw [xferOp, if_neg (c := Config.maxFrame < 0) (Nat.not_lt_zero _),
    if_neg (c := xferLen x < 0) (Nat.not_lt_zero _), if_pos rfl]

/-- The session check of `BSEND` itself comes first, and the one of its `SEND` repeats it. -/
theorem bsendOp_zero (data : Bytes) (s : State) :
    bsendOp data 0 s = if s.session ≠ .opened then .faulted .session s else .ok () s := by
  rw [bsendOp, if_neg (c := data.length < 0) (Nat.not_lt_zero _), List.take_zero, sendOp_nil]
  by_cases hs : s.session = .opened <;> simp [hs]

theorem bxferOp_zero (x : XferBuf) (s : State) :
    bxferOp x 0 s = if s.session ≠ .opened then .faulted .session s else .ok [] s := by
  rw [bxferOp, xferOp_zero, if_neg (c := (0x31 : Byte) ≠ 0x31) (by decide)]

/-! The end of a request that only its checks can fault. -/

/-- A request that makes one check and otherwise leaves the state as it is. -/
theorem conclude_checked {α : Type} (l : Layer) (ret : α → Result) (p : Prop) [Decidable p] (f : FCode) (a : α)
    (s : State) : conclude l ret (if p then .faulted f s else .ok a s) =
      .next (s.reply (if p then .faulted f else .done (ret a))) := by
  by_cases hp : p <;> simp [hp]

/-- The same with two checks. -/
theorem conclude_checked_twice {α : Type} (l : Layer) (ret : α → Result) (p q : Prop) [Decidable p] [Decidable q]
    (f g : FCode) (a : α) (s : State) :
    conclude l ret (if p then .faulted f s else if q then .faulted g s else .ok a s) =
      .next (s.reply (if p then .faulted f else if q then .faulted g else .done (ret a))) := by
  by_cases hp : p
  · simp [hp]
  · simpa [hp] using conclude_checked l ret q g a s

/-- Settles O30: for no bytes each operation is its session and opcode checks alone (R102). -/
theorem emptyTransfers : Obligations.EmptyTransfers := by
  refine fun s => ⟨fun op data hdata => ?_, fun op buf => ?_, fun data => ?_, fun buf => ?_⟩
  · rw [exec_send, hdata, sendOp_nil, conclude_checked_twice]
  · rw [exec_xfer, xferOp_zero, conclude_checked_twice]
  · have hcount : dataCount (some 0) (dataBytes data s.mem) = 0 := rfl
    rw [exec_bsend, hcount, bsendOp_zero, conclude_checked]
  · have hcount : bufCount (some 0) buf = 0 := rfl
    rw [exec_bxfer, hcount, bxferOp_zero, conclude_checked]

end Sys2Proof.Machine
end

section
/-! The line states of the multiplexer and the requests that move between them (R114 to R118, R123). -/

namespace Sys2Proof.Machine

/-! The multiplexer's line requests as instructions: one GPIO write each, at layer BUS (R115 to R118, R122). -/

theorem exec_select (s : State) :
    exec .select s = conclude .bus (fun _ => .unit) (setGpioOp Config.gpioSelect Config.gpioDirMask s) := rfl

theorem exec_deselect (s : State) :
    exec .deselect s = conclude .bus (fun _ => .unit) (setGpioOp Config.gpioDeselect Config.gpioDirMask s) := rfl

theorem exec_release (s : State) :
    exec .release s = conclude .bus (fun _ => .unit) (setGpioOp Config.gpioRelease Config.gpioDirMask s) := rfl

/-! A GPIO write that the chip-select order refuses, and one that it admits and the transport answers in full. -/

theorem setGpioOp_csOrder {v : Byte} {s : State} (hs : s.session = .opened) (hc : csOrderOk v s = false) :
    setGpioOp v Config.gpioDirMask s = .faulted .csOrder s := by
  rw [setGpioOp, if_neg (by simp [hs]), if_neg (by simp), if_pos (by simp [hc])]

theorem conclude_setGpioOp_full {v : Byte} {s : State} {w : List WriteAns} (l : Layer) (hs : s.session = .opened)
    (hc : csOrderOk v s = true) (hw : s.writes = .full :: w) :
    conclude l (fun _ => .unit) (setGpioOp v Config.gpioDirMask s) =
      .next { s.sent [wrote [0x80, v, 0x93]] w with
        gpioVal := some v, gpioDir := some 0x93, answer := .done .unit } := by
  rw [setGpioOp_full v s w hs hc hw]
  rfl

/-! Which line states hold the board in reset. -/

theorem inReset_iff_of_gpioVal {s : State} {g : Byte} (h : s.gpioVal = some g) :
    InReset s ↔ g.getLsbD Config.cresetBit = false := by
  simp [InReset, h]

theorem not_inReset_of_gpioVal_none {s : State} (h : s.gpioVal = none) : ¬InReset s := by
  simp [InReset, h]

/-- `SELECT` is refused wherever the board is not held in reset (R114). -/
theorem exec_select_of_not_inReset {s : State} (hs : s.session = .opened) (hr : ¬InReset s) :
    exec .select s = .next (s.reply (.faulted .csOrder)) := by
  have hc : csOrderOk Config.gpioSelect s = false := by simpa using (csOrderOk_select_iff s).not.mpr hr
  rw [exec_select, setGpioOp_csOrder hs hc, conclude_faulted]

/-- Settles O39: `SELECT` turns on whether the line state holds the board in reset (R114), which the rows of R123 ⊥ and
0x90 do not and 0x10 and 0x00 do; the values of `DESELECT` and `RELEASE` do not assert chip-select and are always
admitted. -/
theorem lineTable : Obligations.LineTable := by
  intro s w hs hw
  refine ⟨fun hline => ?_, fun hline => ?_, ?_, ?_⟩
  · refine exec_select_of_not_inReset hs ?_
    obtain hnone | h90 := hline
    · exact not_inReset_of_gpioVal_none hnone
    · exact (inReset_iff_of_gpioVal h90).not.mpr (by decide)
  · have hr : InReset s := by
      obtain h10 | h00 | hr := hline
      · exact (inReset_iff_of_gpioVal h10).mpr (by decide)
      · exact (inReset_iff_of_gpioVal h00).mpr (by decide)
      · exact hr
    rw [exec_select, conclude_setGpioOp_full .bus hs ((csOrderOk_select_iff s).mpr hr) hw]
  · rw [exec_deselect, conclude_setGpioOp_full .bus hs (csOrderOk_deselect s) hw]
  · rw [exec_release, conclude_setGpioOp_full .bus hs (csOrderOk_release s) hw]

end Sys2Proof.Machine
end

section
/-! The erase plan of the reference host: its range rounded outward to whole 64 KiB blocks (R147, R148). -/

namespace Sys2Proof.Machine

/-! The two ends of the plan. -/

theorem eraseBegin_mod (o : Nat) : eraseBegin o % 65536 = 0 := Nat.mul_mod_left _ _

theorem eraseEnd_mod (o n : Nat) : eraseEnd o n % 65536 = 0 := Nat.mul_mod_left _ _

theorem eraseBegin_bounds (o : Nat) : eraseBegin o ≤ o ∧ o < eraseBegin o + 65536 := by
  simp only [eraseBegin, Config.blockSize]
  omega

theorem eraseEnd_bounds (o n : Nat) : o + n ≤ eraseEnd o n ∧ eraseEnd o n < o + n + 65536 := by
  simp only [eraseEnd, Config.blockSize]
  omega

/-- The address space ends at a block boundary, so rounding up does not leave it. -/
theorem eraseEnd_le_addrLimit {o n : Nat} (h : o + n ≤ Config.addrLimit) : eraseEnd o n ≤ Config.addrLimit := by
  have hmod := eraseEnd_mod o n
  have hlt := (eraseEnd_bounds o n).2
  simp only [Config.addrLimit] at h ⊢
  omega

/-- Both ends are multiples of the block size, so the block at `a` is the one with the index
`(a - eraseBegin o) / 65536`. -/
theorem mem_erasePlan_iff (o n a : Nat) :
    a ∈ erasePlan o n ↔ a % 65536 = 0 ∧ eraseBegin o ≤ a ∧ a < eraseEnd o n := by
  have hbegin := eraseBegin_mod o
  have hend := eraseEnd_mod o n
  simp only [erasePlan, Config.blockSize, List.mem_map, List.mem_range]
  constructor
  · rintro ⟨j, hj, rfl⟩
    omega
  · rintro ⟨ha, hlo, hhi⟩
    exact ⟨(a - eraseBegin o) / 65536, by omega, by omega⟩

/-- Settles O58: the ends of the plan, its blocks, and for a block past the address space the address check of `BE64K`
(R59). -/
theorem erasePlan_roundsOutward : Obligations.ErasePlan := by
  intro o n
  obtain ⟨hbeginLe, hbeginLt⟩ := eraseBegin_bounds o
  obtain ⟨hendLe, hendLt⟩ := eraseEnd_bounds o n
  refine ⟨hbeginLe, hbeginLt, hendLe, hendLt, eraseBegin_mod o, eraseEnd_mod o n, mem_erasePlan_iff o n,
    eraseEnd_le_addrLimit, fun a _ ha s hs => ?_⟩
  exact (addressRange s a hs ha).1

end Sys2Proof.Machine
end

section
/-! `OPEN`, read backwards: a request that is done made every one of its steps, so its end state is known in full
(R97, R190). -/

namespace Sys2Proof.Machine

/-! What the end of a piece of pseudocode says about the parts it was made of. -/

/-- Sequenced pseudocode goes on only where both of its parts do. -/
theorem Res.bind_eq_ok {α β : Type} {r : Res α} {k : α → State → Res β} {b : β} {u : State} :
    r.bind k = .ok b u ↔ ∃ a t, r = .ok a t ∧ k a t = .ok b u := by
  cases r <;> simp [Res.bind]

/-- The request is done only where the pseudocode went on to its end. -/
theorem eq_ok_of_conclude_answer {α : Type} {l : Layer} {ret : α → Result} {r : Res α} {t : State} {x : Result}
    (h : conclude l ret r = .next t) (ha : t.answer = .done x) :
    ∃ a u, r = .ok a u ∧ t = u.reply (.done (ret a)) := by
  cases r with
  | ok a u => cases h; exact ⟨a, u, rfl, rfl⟩
  | raised c u => cases h; cases ha
  | faulted f u => cases h; cases ha
  | hung => cases h

/-- A write that goes on logged all of its bytes as received. -/
theorem txWrite_bind_eq_ok {α : Type} {bs : Bytes} {s u : State} {k : Unit → State → Res α} {a : α}
    (h : (txWrite bs s).bind k = .ok a u) : ∃ t, LinkedTo s t [wrote bs] ∧ k () t = .ok a u := by
  obtain ⟨_, t, hwrite, hk⟩ := Res.bind_eq_ok.mp h
  have hrun := txWrite_run [] (0, 0) bs s
  rw [hwrite] at hrun
  obtain ⟨_, _, _, rfl, hl⟩ := hrun
  exact ⟨t, hl, hk⟩

/-- A checked control call that goes on had a success answer, and its event records the answer's value. -/
theorem ctrl_bind_eq_ok {α : Type} {op : CtrlOp} {s u : State} {k : Byte → State → Res α} {a : α}
    (h : (ctrl op s).bind k = .ok a u) :
    ∃ v t, LinkedTo s t [.ctrl op (ctrlResult op (.success v))] ∧ k v t = .ok a u := by
  obtain ⟨v, t, hcall, hk⟩ := Res.bind_eq_ok.mp h
  have hl := (drawCtrl_linked s).log (.ctrl op (ctrlResult op (drawCtrl s).1))
  unfold ctrl ctrlCall at hcall
  cases ha : (drawCtrl s).1 with
  | success v' =>
    rw [ha] at hcall hl
    cases hcall
    exact ⟨v, _, hl, hk⟩
  | failure =>
    rw [ha] at hcall
    cases hcall

/-- The divisor frame of `OPEN` records the operand in `SLOW` (R24). -/
theorem divOp_bind_eq_ok {α : Type} {slow : Bool} {s u : State} {k : Unit → State → Res α} {a : α}
    (h : (divOp (divisorOf slow) s).bind k = .ok a u) :
    ∃ t, LinkedTo s t [wrote (divFrame (divisorOf slow))] ∧
      k () { t with slow := some slow, clkdiv := some (divisorOf slow) } = .ok a u := by
  obtain ⟨_, _, hdiv, hk⟩ := Res.bind_eq_ok.mp h
  obtain ⟨t, hl, hupdate⟩ := txWrite_bind_eq_ok hdiv
  have hslow : decide (divisorOf slow = Config.divSlow) = slow := by cases slow <;> decide
  rw [hslow] at hupdate
  cases hupdate
  exact ⟨t, hl, hk⟩

/-! The end of `OPEN`. -/

/-- The eight link events of a done `OPEN` whose `GET_LATENCY` returned `v` (R97). -/
def openEvents (slow : Bool) (v : Byte) : List LinkEvent :=
  [.ctrl .acquire .success, .ctrl .resetDevice .success, .ctrl .purge .success, .ctrl .getLatency (.latency v),
   .ctrl (.setLatency Config.latFast) .success, .ctrl (.setBitmode Config.gpioDirAllOut .mpsse) .success,
   wrote [0x8B], wrote (divFrame (divisorOf slow))]

/-- `s` with the registers a done `OPEN` writes (R190). -/
def State.withOpenRegs (slow : Bool) (v : Byte) (s : State) : State :=
  { s with
    session := .opened
    handle := true
    latSaved := some v
    latCaptured := true
    slow := some slow
    clkdiv := some (divisorOf slow)
    gpioVal := none
    gpioDir := some Config.gpioDirAllOut
    gpioInLo := none
    gpioInHi := none
    bitsIn := none
    status := none
    jedecMfr := none
    jedecDev := none
    jedecExtlen := none
    jedecExt := none
    flashPwr := .unknown
    err := none }

theorem exec_openReq (slow : Bool) (s : State) :
    exec (.openReq slow) s = conclude .engine (fun _ => .unit) (openOp slow s) := rfl

/-- Where `OPEN` goes on to its end, each of its eight transport calls was logged, and nothing but its own registers
and the oracle differs. -/
theorem openOp_eq_ok {slow : Bool} {s t : State} {a : Unit} (h : openOp slow s = .ok a t) :
    ∃ v u, LinkedTo s u (openEvents slow v) ∧ t = u.withOpenRegs slow v := by
  unfold openOp clk5Op at h
  split at h
  · cases h
  · obtain ⟨_, _, ⟨_, _, _, _, rfl⟩, h⟩ := ctrl_bind_eq_ok h
    obtain ⟨_, _, ⟨_, _, _, _, rfl⟩, h⟩ := ctrl_bind_eq_ok h
    obtain ⟨_, _, ⟨_, _, _, _, rfl⟩, h⟩ := ctrl_bind_eq_ok h
    obtain ⟨v, _, ⟨_, _, _, _, rfl⟩, h⟩ := ctrl_bind_eq_ok h
    obtain ⟨_, _, ⟨_, _, _, _, rfl⟩, h⟩ := ctrl_bind_eq_ok h
    obtain ⟨_, _, ⟨_, _, _, _, rfl⟩, h⟩ := ctrl_bind_eq_ok h
    obtain ⟨_, ⟨_, _, _, _, rfl⟩, h⟩ := txWrite_bind_eq_ok h
    obtain ⟨_, ⟨w, r, c, d, rfl⟩, h⟩ := divOp_bind_eq_ok h
    cases h
    refine ⟨v, _, ⟨w, r, c, d, rfl⟩, ?_⟩
    simp [State.linked, State.withOpenRegs, openEvents, ctrlResult]

/-- Settles O23: a done `OPEN` went on to its end, whose registers and events are known; the events hold the answer of
`GET_LATENCY` (R190). -/
theorem openLeaves : Obligations.OpenLeaves := by
  intro slow s t x hexec hanswer
  rw [exec_openReq] at hexec
  obtain ⟨_, _, hok, rfl⟩ := eq_ok_of_conclude_answer hexec hanswer
  obtain ⟨v, _, ⟨w, r, c, d, rfl⟩, rfl⟩ := openOp_eq_ok hok
  have hlatency : .ctrl .getLatency (.latency v) ∈ openEvents slow v := by simp [openEvents]
  refine ⟨rfl, rfl, rfl, ⟨v, openEvents slow v, rfl, rfl, hlatency⟩, ?_⟩
  and_intros <;> rfl

end Sys2Proof.Machine
end

section
/-! What `exec_does` says of each way to be answered, and the obligations about every instruction that follow from it: the
invariant, the frames of registers, memory and logs, faults and raises. -/

namespace Sys2Proof.Machine

/-! The answer says how the instruction ended. -/

theorem exec_faulted {i : Instr} {s t : State} {f : FCode} (h : exec i s = .next t) (ha : t.answer = .faulted f) :
    t = s.reply (.faulted f) := by
  obtain ⟨g, rfl⟩ | ⟨c, u, evs, e, -, -, -, -, -, rfl⟩ | ⟨a, u, evs, -, -, rfl⟩ := exec_does i s t h
  · cases ha; rfl
  · cases ha
  · cases ha

/-- A raised instruction ran up to the first failing event and latched its cause (R167). -/
theorem exec_raised {i : Instr} {s t : State} {x : ErrRec} (h : exec i s = .next t) (ha : t.answer = .raised x) :
    ∃ c u evs e, x = ⟨.hardwareError, c, layerOf i⟩ ∧ t = raiseError c (layerOf i) u ∧
      Foot (writeSet i) (storeRange i) s u (evs ++ [e]) ∧ failingEvent c e = true ∧
      (layerOf i = .flash → lineAfterRaise c u) ∧ i ≠ .abortReq := by
  obtain ⟨g, rfl⟩ | ⟨c, u, evs, e, hf, -, he, hline, hi, rfl⟩ | ⟨a, u, evs, -, -, rfl⟩ := exec_does i s t h
  · cases ha
  · cases ha; exact ⟨c, u, evs, e, rfl, rfl, hf, he, hline, hi⟩
  · cases ha

theorem exec_done {i : Instr} {s t : State} {x : Result} (h : exec i s = .next t) (ha : t.answer = .done x) :
    ∃ u evs, t = u.reply (.done x) ∧ Foot (writeSet i) (storeRange i) s u evs ∧ Finished i s u evs := by
  obtain ⟨g, rfl⟩ | ⟨c, u, evs, e, -, -, -, -, -, rfl⟩ | ⟨a, u, evs, hf, hfin, rfl⟩ := exec_does i s t h
  · cases ha
  · cases ha
  · cases ha; exact ⟨u, evs, rfl, hf, hfin⟩

/-! What the host reads after an answer. -/

@[simp] theorem hostRead_reply (r : Reg) (s : State) (a : Answer) : hostRead r (s.reply a) = hostRead r s := by
  cases r <;> rfl

theorem hostRead_raiseError {r : Reg} (hs : r ≠ .session) (he : r ≠ .err) (c : Cause) (l : Layer) (s : State) :
    hostRead r (raiseError c l s) = hostRead r s := by
  cases r
  case session => exact absurd rfl hs
  case err => exact absurd rfl he
  all_goals rfl

/-! The invariant. -/

theorem Inv.reply {s : State} (h : Inv s) (a : Answer) : Inv (s.reply a) :=
  ⟨h.memory, h.chipSelect, h.direction, h.openSession, h.captured, h.closedSession, h.failedSession, h.divisor, h.extended⟩

theorem Inv.withQueue {s : State} (h : Inv s) (q : List HostItem) : Inv { s with queue := q } :=
  ⟨h.memory, h.chipSelect, h.direction, h.openSession, h.captured, h.closedSession, h.failedSession, h.divisor, h.extended⟩

theorem exec_inv {i : Instr} {s t : State} (hi : Inv s) (h : exec i s = .next t) : Inv t := by
  obtain ⟨f, rfl⟩ | ⟨c, u, evs, e, hf, -, -, -, -, rfl⟩ | ⟨a, u, evs, -, hfin, rfl⟩ := exec_does i s t h
  · exact hi.reply _
  · exact (hf.mid hi.mid).raise c _
  · exact (hfin.inv hi).reply _

/-- A step that answers a next state idles, or runs an instruction on the state with a shorter request stream. -/
theorem step_eq_next {s t : State} (h : step s = .next t) :
    t = s ∨ ∃ i q, exec i { s with queue := q } = .next t := by
  unfold step fetch at h
  split at h
  next => cases h; exact .inl rfl
  next i u hfetch =>
    right
    split at hfetch
    next => cases hfetch
    next => cases hfetch; exact ⟨_, _, h⟩
    next =>
      split at hfetch
      next => cases hfetch; exact ⟨_, _, h⟩
      next => cases hfetch; exact ⟨_, _, h⟩
      next => cases hfetch
  next => cases h

/-- Settles O3: a step idles or runs one instruction, which keeps the invariant however it ends. -/
theorem invariantKept : Obligations.InvariantKept := by
  intro s t hi hstep
  obtain rfl | ⟨i, q, hexec⟩ := step_eq_next hstep
  · exact hi
  · exact exec_inv (hi.withQueue q) hexec

/-- Settles O2: at reset every register an `Inv` clause asks about holds no value, and the session is closed. -/
theorem invariantAtReset : Obligations.InvariantAtReset where
  memory := wf_nil
  chipSelect := nofun
  direction := nofun
  openSession := nofun
  captured := nofun
  closedSession _ := rfl
  failedSession := nofun
  divisor := rfl
  extended := nofun

/-! The frames. -/

/-- Settles O13: each way to end has the footprint of the instruction, and an answer stores nothing. -/
theorem memoryFrame : Obligations.MemoryFrame := by
  intro i s t hexec a ha
  obtain ⟨f, rfl⟩ | ⟨c, u, evs, e, hf, -, -, -, -, rfl⟩ | ⟨x, u, evs, hf, -, rfl⟩ := exec_does i s t hexec
  · rfl
  · exact hf.mem a ha
  · exact hf.mem a ha

/-- Settles O11: the footprint keeps the logs' beginnings, the request stream and the parameters. -/
theorem logsOnlyGrow : Obligations.LogsOnlyGrow := by
  intro i s t hexec
  obtain ⟨f, rfl⟩ | ⟨c, u, evs, e, hf, -, -, -, -, rfl⟩ | ⟨x, u, evs, hf, -, rfl⟩ := exec_does i s t hexec
  · exact ⟨List.prefix_rfl, List.prefix_rfl, List.prefix_rfl, rfl, rfl⟩
  · exact ⟨⟨_, hf.txlog.symm⟩, hf.warns, hf.reports, hf.queue, hf.opts⟩
  · exact ⟨⟨_, hf.txlog.symm⟩, hf.warns, hf.reports, hf.queue, hf.opts⟩

/-- Without `VERBOSE`, `WREN` is its transaction alone: the parameters do not change on the way (R130). -/
theorem wrenOp_of_not_verbose {s : State} (hv : s.opts.verbose = false) : wrenOp s = sOp 0x06 s := by
  by_cases hs : s.session = .opened
  · have hlast : (sOp 0x06 s).bind (fun _ u => rdsrIfVerbose u) = sOp 0x06 s := by
      cases hop : sOp 0x06 s with
      | ok a u =>
        have hopts : u.opts = s.opts := by
          obtain ⟨f, hfault⟩ | hrun := sOp_legal 0x06 s
          · rw [hfault] at hop; cases hop
          · rw [hop] at hrun
            obtain ⟨evs, hf, -⟩ := hrun
            exact hf.opts
        simp [Res.bind, rdsrIfVerbose, hopts, hv]
      | raised c u => rfl
      | faulted f u => rfl
      | hung => rfl
    rw [wrenOp, if_neg (by simp [hs]), rdsrIfVerbose, if_neg (by simp [hv])]
    exact hlast
  · rw [wrenOp, if_pos hs, sOp, txn, if_pos hs]

theorem exec_wren_of_not_verbose {s : State} (hv : s.opts.verbose = false) : exec .wren s = exec .spiWriteEnable s :=
  congrArg (conclude .flash _) (wrenOp_of_not_verbose hv)

theorem hostRead_exec_of_notMem {i : Instr} {s t : State} {r : Reg} (h : exec i s = .next t) (hr : r ∉ writeSet i)
    (htx : r ≠ .txlog) (hraise : (∀ e, t.answer ≠ .raised e) ∨ (r ≠ .session ∧ r ≠ .err)) :
    hostRead r t = hostRead r s := by
  obtain ⟨f, rfl⟩ | ⟨c, u, evs, e, hf, -, -, -, -, rfl⟩ | ⟨x, u, evs, hf, -, rfl⟩ := exec_does i s t h
  · exact hostRead_reply r s _
  · obtain hno | ⟨hs, he⟩ := hraise
    · exact absurd rfl (hno _)
    · rw [hostRead_raiseError hs he, hf.regs r hr htx]
  · rw [hostRead_reply, hf.regs r hr htx]

/-- Settles O12: the footprint leaves each register outside its row; a raise adds `SESSION` and `ERR`. `WREN` without
`VERBOSE` is the write-enable transaction, whose row has no `STATUS`. -/
theorem registerFrame : Obligations.RegisterFrame := by
  refine ⟨fun i s t hexec r hr htx hraise => hostRead_exec_of_notMem hexec hr htx hraise, fun s t hexec hv => ?_⟩
  rw [exec_wren_of_not_verbose hv] at hexec
  have hread : hostRead .status t = hostRead .status s :=
    hostRead_exec_of_notMem hexec (by decide) (by decide) (.inr (by decide))
  exact orUndefined_inj .byte (by simp) _ _ hread

/-! Faults and raises. -/

/-- Settles O7: the fault of `exec_faulted`. -/
theorem faultChangesNothing : Obligations.FaultChangesNothing :=
  fun _ _ _ _ hexec hanswer => exec_faulted hexec hanswer

/-- Settles O8: the answer is the record latched. -/
theorem raiseLatchesError : Obligations.RaiseLatchesError := by
  intro i s t x hexec hanswer
  obtain ⟨c, u, evs, e, rfl, rfl, -⟩ := exec_raised hexec hanswer
  exact ⟨rfl, rfl, rfl, rfl⟩

/-- Settles O9: the last event of the footprint is the failing one. -/
theorem raiseEndsLog : Obligations.RaiseEndsLog := by
  intro i s t x hexec hanswer
  obtain ⟨c, u, evs, e, rfl, rfl, hf, he, -⟩ := exec_raised hexec hanswer
  exact ⟨evs, e, by rw [raiseError_txlog, hf.txlog, List.append_assoc], he⟩

/-- The two bounds are no failure of an event; the other causes are (R165). -/
theorem eventFailed_iff_of_failingEvent {c : Cause} {e : LinkEvent} (h : failingEvent c e = true) :
    eventFailed e = true ↔ c = .ctrlFail ∨ c = .shortWrite ∨ c = .readNeg := by
  cases c with
  | ctrlFail => cases e <;> simp_all [failingEvent, eventFailed]
  | shortWrite => cases e <;> simp_all [failingEvent, eventFailed]
  | readNeg =>
    cases e with
    | read a => cases a <;> simp_all [failingEvent, eventFailed]
    | _ => simp [failingEvent] at h
  | pollBound =>
    cases e with
    | read a => cases a <;> simp_all [failingEvent, eventFailed]
    | _ => simp [failingEvent] at h
  | busyBound => cases e <;> simp_all [failingEvent, eventFailed]

theorem Clean.not_exists {evs : List LinkEvent} (h : Clean evs) : ¬∃ e ∈ evs, eventFailed e = true := by
  rintro ⟨e, he, hfail⟩
  rw [h e he] at hfail
  cases hfail

/-- Settles O10: a fault has no event and a done instruction only clean ones; a raise has clean events and then the
failing one. -/
theorem firstFailureRaises : Obligations.FirstFailureRaises := by
  intro i s t evs hi hexec hlog
  obtain ⟨f, rfl⟩ | ⟨c, u, evs', e, hf, hclean, he, -, -, rfl⟩ | ⟨x, u, evs', hf, hfin, rfl⟩ := exec_does i s t hexec
  · obtain rfl : evs = [] := by simpa using hlog
    exact ⟨Clean.nil, by simp⟩
  · obtain rfl : evs' ++ [e] = evs := List.append_cancel_left (hf.txlog.symm.trans hlog)
    refine ⟨by rw [List.dropLast_concat]; exact hclean, ?_⟩
    have hlast : (∃ x ∈ evs' ++ [e], eventFailed x = true) ↔ eventFailed e = true := by
      simpa [List.mem_append, or_and_right, exists_or] using fun x hx hfail => absurd ⟨x, hx, hfail⟩ hclean.not_exists
    rw [hlast, eventFailed_iff_of_failingEvent he]
    simp
  · obtain rfl : evs' = evs := List.append_cancel_left (hf.txlog.symm.trans hlog)
    exact ⟨fun x hx => hfin.clean hi x (List.dropLast_subset _ hx), by simpa using (hfin.clean hi).not_exists⟩

/-- Settles O14: a done instruction's events are those of its footprint, which `Finished` describes. -/
theorem framesAndResponses : Obligations.FramesAndResponses := by
  intro i s t x evs hexec hanswer hlog
  obtain ⟨u, evs', rfl, hf, hfin⟩ := exec_done hexec hanswer
  obtain rfl : evs' = evs := List.append_cancel_left (hf.txlog.symm.trans hlog)
  exact ⟨hfin.frames, hfin.silent⟩

/-- Settles O15: the line of `Finished` for a done flash instruction, that of `lineAfterRaise` for a raised one. -/
theorem flashLines : Obligations.FlashLines := by
  intro i s t hflash hexec
  refine ⟨fun ⟨x, hanswer⟩ => ?_, fun x hanswer hcause => ?_⟩
  · obtain ⟨u, evs, rfl, -, hfin⟩ := exec_done hexec hanswer
    exact hfin.line hflash
  · obtain ⟨c, u, evs, e, rfl, rfl, -, -, hline, -⟩ := exec_raised hexec hanswer
    exact hline hflash hcause

end Sys2Proof.Machine
end

section
/-! The session register: what each state of it admits and what each way to end leaves in it (R21, R169, R188, R191). -/

namespace Sys2Proof.Machine

/-! Every operation checks the session first. -/

theorem conclude_of_faulted {α : Type} {l : Layer} {ret : α → Result} {r : Res α} {f : FCode} {s : State}
    (h : r = .faulted f s) : conclude l ret r = .next (s.reply (.faulted f)) := by rw [h, conclude_faulted]

theorem Res.bind_of_faulted {α β : Type} {r : Res α} {f : FCode} {s : State} (h : r = .faulted f s)
    (k : α → State → Res β) : r.bind k = .faulted f s := by rw [h]; rfl

section NotOpened

variable {s : State} (hs : s.session ≠ .opened)
include hs

theorem sendOp_notOpened (op : Byte) (data : Bytes) : sendOp op data s = .faulted .session s := if_pos hs

theorem bsendOp_notOpened (data : Bytes) (n : Nat) : bsendOp data n s = .faulted .session s := if_pos hs

theorem xferOp_notOpened (op : Byte) (x : XferBuf) (n : Nat) : xferOp op x n s = .faulted .session s := if_pos hs

theorem xbitsOp_notOpened (v : Byte) (k : Nat) : xbitsOp v k s = .faulted .session s := if_pos hs

theorem setGpioOp_notOpened (v d : Byte) : setGpioOp v d s = .faulted .session s := if_pos hs

theorem rdGpioLOp_notOpened : rdGpioLOp s = .faulted .session s := if_pos hs

theorem rdGpioHOp_notOpened : rdGpioHOp s = .faulted .session s := if_pos hs

theorem inSession_notOpened (op : State → Res Unit) : inSession op s = .faulted .session s := if_pos hs

theorem closeOp_notOpened : closeOp s = .faulted .session s := if_pos hs

theorem txn_notOpened {α : Type} (body : State → Res α) : txn body s = .faulted .session s := if_pos hs

theorem flashChecks_notOpened {α : Type} (op : State → Res α) : flashChecks op s = .faulted .session s := if_pos hs

theorem wrenOp_notOpened : wrenOp s = .faulted .session s := if_pos hs

theorem be64kOp_notOpened (a : Nat) : be64kOp a s = .faulted .session s := if_pos hs

theorem ppOp_notOpened (a : Nat) (data : Bytes) (n : Nat) : ppOp a data n s = .faulted .session s := if_pos hs

theorem readOp_notOpened (a : Nat) (x : XferBuf) (n : Nat) : readOp a x n s = .faulted .session s := if_pos hs

theorem sStatus_notOpened : sStatus s = .faulted .session s := Res.bind_of_faulted (txn_notOpened hs _) _

theorem execLfDiv_notOpened (d : BitVec 16) : execLfDiv d s = .next (s.reply (.faulted .session)) := by
  rw [execLfDiv, if_neg fun h => hs h.1, conclude_of_faulted (inSession_notOpened hs _)]

/-- Outside an open session every instruction but `OPEN` and `ABORT` is refused (R21). -/
theorem exec_notOpened {i : Instr} (ha : i ≠ .abortReq) (ho : ∀ slow, i ≠ .openReq slow) :
    exec i s = .next (s.reply (.faulted .session)) := by
  cases i with
  | openReq slow => exact absurd rfl (ho slow)
  | abortReq => exact absurd rfl ha
  | lfDiv d => exact execLfDiv_notOpened hs d
  | lfBo | send => exact conclude_of_faulted (sendOp_notOpened hs _ _)
  | bsend => exact conclude_of_faulted (bsendOp_notOpened hs _ _)
  | lfBx | xfer | bxfer => exact conclude_of_faulted (xferOp_notOpened hs _ _ _)
  | lfBits | xbits => exact conclude_of_faulted (xbitsOp_notOpened hs _ _)
  | lfGset | setGpio | select | deselect | release => exact conclude_of_faulted (setGpioOp_notOpened hs _ _)
  | lfGrdLow | rdGpioL => exact conclude_of_faulted (rdGpioLOp_notOpened hs)
  | lfGrdHigh | rdGpioH => exact conclude_of_faulted (rdGpioHOp_notOpened hs)
  | lfClk5 => exact conclude_of_faulted (inSession_notOpened hs _)
  | closeReq => exact conclude_of_faulted (closeOp_notOpened hs)
  | spiWriteEnable | spiWriteStatus | spiChipErase | spiReset | freset | ce =>
    exact conclude_of_faulted (txn_notOpened hs _)
  | spiPowerDown | spiReleasePowerDown | fpup | fpdn =>
    exact conclude_of_faulted (Res.bind_of_faulted (txn_notOpened hs _) _)
  | disProt => exact conclude_of_faulted (Res.bind_of_faulted (txn_notOpened hs _) _)
  | spiReadStatus1 => exact conclude_of_faulted (sStatus_notOpened hs)
  | rdsr => exact conclude_of_faulted (Res.bind_of_faulted (sStatus_notOpened hs) _)
  | wren => exact conclude_of_faulted (wrenOp_notOpened hs)
  | spiBlockErase64K | be64k => exact conclude_of_faulted (be64kOp_notOpened hs _)
  | spiPageProgram | pp => exact conclude_of_faulted (ppOp_notOpened hs _ _ _)
  | spiReadData | read => exact conclude_of_faulted (readOp_notOpened hs _ _ _)
  | spiJedecId | rdId | waitBusy => exact conclude_of_faulted (flashChecks_notOpened hs _)

end NotOpened

theorem exec_openReq_notClosed {s : State} (hs : s.session ≠ .closed) (slow : Bool) :
    exec (.openReq slow) s = .next (s.reply (.faulted .session)) :=
  conclude_of_faulted (if_pos hs)

/-! How `OPEN`, `CLOSE` and `ABORT` end. -/

theorem closed_of_openReq_done {slow : Bool} {s t : State} {x : Result} (h : exec (.openReq slow) s = .next t)
    (ha : t.answer = .done x) : s.session = .closed := by
  by_contra hs
  rw [exec_openReq_notClosed hs] at h
  cases h
  cases ha

theorem Legal.of_eq_ok {α : Type} {W : List Reg} {rng : Nat × Nat} {s u : State} {a : α} {r : Res α}
    {Q : α → State → List LinkEvent → Prop} {Z : Cause → State → Prop} (h : Legal W rng s r Q Z) (hr : r = .ok a u) :
    ∃ evs, Foot W rng s u evs ∧ Q a u evs := by
  subst hr
  obtain ⟨f, hf⟩ | ⟨evs, hf, -, hq⟩ := h
  · cases hf
  · exact ⟨evs, hf, hq⟩

theorem exec_closeReq (s : State) : exec .closeReq s = conclude .engine (fun _ => .unit) (closeOp s) := rfl

theorem exec_abortReq (s : State) : exec .abortReq s = conclude .engine (fun _ => .unit) (abortOp s) := rfl

theorem opened_of_closeReq_done {s t : State} {x : Result} (h : exec .closeReq s = .next t)
    (ha : t.answer = .done x) : s.session = .opened := by
  by_contra hs
  rw [exec_notOpened hs (by simp) (by simp)] at h
  cases h
  cases ha

theorem exec_closeReq_done {s t : State} {x : Result} (h : exec .closeReq s = .next t) (ha : t.answer = .done x) :
    t.session = .closed ∧ t.handle = false ∧ t.latCaptured = false := by
  rw [exec_closeReq] at h
  obtain ⟨_, u, hok, rfl⟩ := eq_ok_of_conclude_answer h ha
  obtain ⟨evs, -, -, hclosed⟩ := (closeOp_legal s).of_eq_ok hok
  exact hclosed

/-- `ABORT` is always done (R111). -/
theorem exec_abortReq_next {s t : State} (h : exec .abortReq s = .next t) :
    t.answer = .done .unit ∧ t.session = .closed ∧ t.handle = false ∧ t.latCaptured = false := by
  rw [exec_abortReq] at h
  have hends := abortOp_ends s
  cases hop : abortOp s with
  | ok a u =>
    rw [hop] at h hends
    cases h
    obtain ⟨evs, -, -, hsession, hcaptured, hhandle⟩ := hends
    exact ⟨rfl, hsession, hhandle, hcaptured⟩
  | raised c u => rw [hop] at hends; exact hends.elim
  | faulted f u => rw [hop] at hends; exact hends.elim
  | hung => rw [hop] at h; cases h

/-- Only the three session requests have `SESSION` in their row (R40). -/
theorem session_notMem_writeSet {i : Instr} (ha : i ≠ .abortReq) (hc : i ≠ .closeReq) (ho : ∀ slow, i ≠ .openReq slow) :
    Reg.session ∉ writeSet i := by
  cases i with
  | abortReq => exact absurd rfl ha
  | closeReq => exact absurd rfl hc
  | openReq slow => exact absurd rfl (ho slow)
  | _ => simp [writeSet, gpioRegs, jedecRegs]

theorem notFailed_of_raised {i : Instr} {s t : State} {x : ErrRec} (h : exec i s = .next t) (ha : t.answer = .raised x) :
    s.session ≠ .failed := by
  intro hs
  obtain ⟨-, -, -, -, -, -, -, -, -, hi⟩ := exec_raised h ha
  have hfault : exec i s = .next (s.reply (.faulted .session)) := by
    by_cases ho : ∃ slow, i = .openReq slow
    · obtain ⟨slow, rfl⟩ := ho
      exact exec_openReq_notClosed (by simp [hs]) slow
    · exact exec_notOpened (by simp [hs]) hi (by simpa using ho)
  rw [hfault] at h
  cases h
  cases ha

/-- Settles O5: the checks in front of each request, and the session each way to end leaves. -/
theorem sessionRule : Obligations.SessionRule := by
  refine ⟨fun i s ha ho hs => exec_notOpened hs ha ho, fun slow s hs => exec_openReq_notClosed hs slow, ?_, ?_, ?_, ?_,
    ?_, ?_⟩
  · intro slow s t x hexec hanswer
    exact ⟨closed_of_openReq_done hexec hanswer, (openLeaves slow s t x hexec hanswer).1⟩
  · intro i s t e hexec hanswer
    have hs := notFailed_of_raised hexec hanswer
    exact ⟨by cases hsession : s.session <;> simp_all, (raiseLatchesError i s t e hexec hanswer).2.1⟩
  · intro s t x hexec hanswer
    exact ⟨opened_of_closeReq_done hexec hanswer, (exec_closeReq_done hexec hanswer).1⟩
  · intro s t hexec
    exact (exec_abortReq_next hexec).2.1
  · intro i s t x ha hc ho hexec hanswer
    obtain ⟨u, evs, rfl, hf, -⟩ := exec_done hexec hanswer
    exact hf.session (session_notMem_writeSet ha hc ho)
  · intro i s t f hexec hanswer
    rw [exec_faulted hexec hanswer, reply_session]

theorem exec_abortReq_err {s t : State} (h : exec .abortReq s = .next t) : t.err = s.err := by
  obtain ⟨u, evs, rfl, hf, -⟩ := exec_done h (exec_abortReq_next h).1
  exact hf.err (by decide)

/-- Settles O6: a failed session is neither open nor closed, so the checks refuse all but `ABORT`, whose row has no
`ERR`. -/
theorem failedSession : Obligations.FailedSession := by
  refine ⟨fun i s hs ha => ?_, fun s t hexec => ⟨exec_abortReq_err hexec, (exec_abortReq_next hexec).1⟩, ?_, ?_⟩
  · by_cases ho : ∃ slow, i = .openReq slow
    · obtain ⟨slow, rfl⟩ := ho
      exact exec_openReq_notClosed (by simp [hs]) slow
    · exact exec_notOpened (by simp [hs]) ha (by simpa using ho)
  · intro i s t hs ho hexec
    by_cases ha : i = .abortReq
    · subst ha
      exact exec_abortReq_err hexec
    · rw [exec_notOpened hs ha ho] at hexec
      cases hexec
      rfl
  · intro slow s t x hexec hanswer
    rw [exec_openReq] at hexec
    obtain ⟨_, _, hok, rfl⟩ := eq_ok_of_conclude_answer hexec hanswer
    obtain ⟨v, u, -, rfl⟩ := openOp_eq_ok hok
    rfl

/-! After the session has ended. -/

/-- Where there is no handle and nothing captured, `ABORT` of a closed session does nothing (R111). -/
theorem exec_abortReq_idle {s : State} (hs : s.session = .closed) (hh : s.handle = false) (hl : s.latCaptured = false) :
    exec .abortReq s = .next (s.reply (.done .unit)) := by
  have hsame : ({ s with latCaptured := false, session := .closed } : State) = s := by rw [← hs, ← hl]
  rw [exec_abortReq, abortOp, if_neg (by simp [hh]), hsame, conclude_ok]

/-- Settles O28: the rows of the two requests end the session and leave the other registers; in what they leave, each
request but `OPEN` is refused or does nothing. -/
theorem afterCloseOrAbort : Obligations.AfterCloseOrAbort := by
  refine ⟨fun i s t x hi hexec hanswer => ?_, fun i s t hs hh hl ho hexec g => ?_⟩
  · have hkept : ∀ g, g ∉ [Reg.session, .handle, .latCaptured, .warnlog, .txlog] → hostRead g t = hostRead g s := by
      intro g hg
      refine hostRead_exec_of_notMem hexec (fun hmem => hg ?_) (fun h => hg (by simp [h])) (.inl (by simp [hanswer]))
      obtain rfl | rfl := hi <;> simp only [writeSet, List.mem_cons] at hmem ⊢ <;> tauto
    obtain rfl | rfl := hi
    · obtain ⟨hsession, hhandle, hcaptured⟩ := exec_closeReq_done hexec hanswer
      exact ⟨hsession, hhandle, hcaptured, hkept⟩
    · obtain ⟨-, hsession, hhandle, hcaptured⟩ := exec_abortReq_next hexec
      exact ⟨hsession, hhandle, hcaptured, hkept⟩
  · by_cases ha : i = .abortReq
    · subst ha
      rw [exec_abortReq_idle hs hh hl] at hexec
      cases hexec
      exact hostRead_reply g s _
    · rw [exec_notOpened (by simp [hs]) ha ho] at hexec
      cases hexec
      exact hostRead_reply g s _

/-! `OPEN` always answers: only a loop can hang (R175), and it has none. -/

theorem Res.bind_ne_hung {α β : Type} {r : Res α} {k : α → State → Res β} (h : r ≠ .hung)
    (hk : ∀ a t, k a t ≠ .hung) : r.bind k ≠ .hung := by
  cases r with
  | ok a t => exact hk a t
  | raised c t => nofun
  | faulted f t => nofun
  | hung => exact absurd rfl h

theorem Res.ok_ne_hung {α : Type} (a : α) (s : State) : Res.ok a s ≠ .hung := nofun

theorem txWrite_ne_hung (bs : Bytes) (s : State) : txWrite bs s ≠ .hung := by
  unfold txWrite
  dsimp only
  split <;> nofun

theorem ctrl_ne_hung (op : CtrlOp) (s : State) : ctrl op s ≠ .hung := by
  unfold ctrl
  split <;> nofun

theorem divOp_ne_hung (d : BitVec 16) (s : State) : divOp d s ≠ .hung := by
  rw [divOp]
  exact Res.bind_ne_hung (txWrite_ne_hung _ s) fun _ _ => Res.ok_ne_hung _ _

theorem openOp_ne_hung (slow : Bool) (s : State) : openOp slow s ≠ .hung := by
  unfold openOp clk5Op
  split
  · nofun
  · iterate 6 refine Res.bind_ne_hung (ctrl_ne_hung _ _) fun _ _ => ?_
    refine Res.bind_ne_hung (txWrite_ne_hung _ _) fun _ _ => ?_
    refine Res.bind_ne_hung (divOp_ne_hung _ _) fun _ _ => ?_
    exact Res.ok_ne_hung _ _

theorem conclude_eq_next_of_ne_hung {α : Type} {l : Layer} {ret : α → Result} {r : Res α} (h : r ≠ .hung) :
    ∃ t, conclude l ret r = .next t := by
  cases r with
  | ok a t => exact ⟨_, rfl⟩
  | raised c t => exact ⟨_, rfl⟩
  | faulted f t => exact ⟨_, rfl⟩
  | hung => exact absurd rfl h

/-- Settles O1: the registers as `State.reset` writes them; there the session is closed and nothing is held, so `OPEN`
runs, `ABORT` does nothing, and the session check refuses the rest (R188). -/
theorem resetRegisters : Obligations.ResetRegisters := by
  refine ⟨by and_intros <;> rfl, by simp [hostRead, orUndefined, State.reset], fun slow => ?_,
    exec_abortReq_idle rfl rfl rfl, fun i ha ho => exec_notOpened (by decide) ha ho⟩
  obtain ⟨t, ht⟩ := conclude_eq_next_of_ne_hung (l := .engine) (ret := fun _ => .unit)
    (openOp_ne_hung slow State.reset)
  refine ⟨t, (exec_openReq slow _).trans ht, fun f hanswer => ?_⟩
  obtain ⟨u, hfault⟩ := eq_faulted_of_conclude_answer ht hanswer
  exact (openOp_run slow State.reset rfl).ne_faulted hfault

end Sys2Proof.Machine
end

section
/-! The two directions of the encodings (30_encoding.md): each decoder reads back what its frame encodes, and for a link
frame accepts nothing else. -/

namespace Sys2Proof.Machine

/-! Operand bytes are read back. -/

theorem addrOfBytes_addrBytes (a : FlashAddr) :
    addrOfBytes (BitVec.ofNat 8 (a.toNat / 65536)) (BitVec.ofNat 8 (a.toNat / 256)) (BitVec.ofNat 8 a.toNat) = a := by
  have hlt := a.isLt
  apply BitVec.eq_of_toNat_eq
  simp only [addrOfBytes, BitVec.toNat_ofNat]
  omega

theorem le16_divisor (d : BitVec 16) : BitVec.ofNat 16 (le16 (lo8 d.toNat) (hi8 d.toNat)) = d := by
  have hlt := d.isLt
  apply BitVec.eq_of_toNat_eq
  simp only [le16, lo8, hi8, BitVec.toNat_ofNat]
  omega

theorem toNat_bitCount (K : BitVec 3) : (BitVec.ofNat 8 K.toNat).toNat = K.toNat := by
  have hlt := K.isLt
  simp only [BitVec.toNat_ofNat]
  omega

theorem lo8_le16 (l h : Byte) : lo8 (le16 l h) = l := by
  have hl := l.isLt
  apply BitVec.eq_of_toNat_eq
  simp only [lo8, le16, BitVec.toNat_ofNat]
  omega

theorem hi8_le16 (l h : Byte) : hi8 (le16 l h) = h := by
  have hl := l.isLt
  have hh := h.isLt
  apply BitVec.eq_of_toNat_eq
  simp only [hi8, le16, BitVec.toNat_ofNat]
  omega

theorem le16_lt (l h : Byte) : le16 l h < 65536 := by
  have hl := l.isLt
  have hh := h.isLt
  simp only [le16]
  omega

/-! Decoding an encoding. -/

theorem decodeByteFrame_encode (mk : Bytes → Instr) (p rest : Bytes) (h1 : 1 ≤ p.length) (h2 : p.length ≤ Config.maxFrame) :
    decodeByteFrame mk (lo8 (p.length - 1) :: hi8 (p.length - 1) :: (p ++ rest)) = .ok (mk p) rest := by
  rw [decodeByteFrame, Laws.FrameLength.le16_lo_hi p.length h1 h2, if_neg (by simp), List.take_left, List.drop_left]

theorem decodeReadData_zeros (a : FlashAddr) (n : Nat) (hn : n ≤ Config.maxFrame) :
    decodeReadData (addrBytes a ++ zeros n) = .ok (.spiReadData a n) [] := by
  have hlen : (zeros n).length = n := List.length_replicate
  rw [addrBytes, List.cons_append, List.cons_append, List.cons_append, List.nil_append, decodeReadData, hlen,
    if_pos ⟨rfl, hn⟩, addrOfBytes_addrBytes]

/-- A link frame is read back with the bytes behind it left over (R71, R80). -/
theorem decode_encode_append {i : Instr} {bs : Bytes} (rest : Bytes) (hw : i.wf = true) (he : encode i = some bs)
    (hl : (responseBytes i).isSome = true) : decode (bs ++ rest) = .ok i rest := by
  cases i with
  | lfBo p | lfBx p =>
    obtain ⟨h1, h2⟩ := of_decide_eq_true hw
    cases he
    exact decodeByteFrame_encode _ p rest h1 h2
  | lfBits K v =>
    cases he
    have hK : BitVec.ofNat 3 (BitVec.ofNat 8 K.toNat).toNat = K := by rw [toNat_bitCount, BitVec.ofNat_toNat, BitVec.setWidth_eq]
    change decodeBits (BitVec.ofNat 8 K.toNat :: v :: rest) = _
    rw [decodeBits, if_pos (by rw [toNat_bitCount]; exact K.isLt), hK]
  | lfGset v => cases he; rfl
  | lfGrdLow => cases he; rfl
  | lfGrdHigh => cases he; rfl
  | lfClk5 => cases he; rfl
  | lfDiv d =>
    cases he
    change decodeDiv (lo8 d.toNat :: hi8 d.toNat :: rest) = _
    rw [decodeDiv, le16_divisor]
  | _ => cases hl

/-- An SPI transaction, which is the whole chip-select window, is read back (R87). -/
theorem decode_encode_spi {i : Instr} {bs : Bytes} (hw : i.wf = true) (he : encode i = some bs)
    (hl : responseBytes i = none) : decode bs = .ok i [] := by
  cases i with
  | spiPageProgram a d =>
    cases he
    change decodePageProgram (addrBytes a ++ d) = _
    rw [addrBytes, List.cons_append, List.cons_append, List.cons_append, List.nil_append, decodePageProgram,
      addrOfBytes_addrBytes, if_pos hw]
  | spiBlockErase64K a =>
    cases he
    change decodeBlockErase (addrBytes a) = _
    rw [addrBytes, decodeBlockErase, addrOfBytes_addrBytes]
  | spiReadData a n =>
    cases he
    exact decodeReadData_zeros a n (of_decide_eq_true hw)
  | spiWriteEnable | spiReadStatus1 | spiWriteStatus | spiChipErase | spiPowerDown | spiReleasePowerDown | spiReset
  | spiJedecId =>
    cases he
    rfl
  | lfBo | lfBx | lfBits | lfGset | lfGrdLow | lfGrdHigh | lfClk5 | lfDiv => cases hl
  | _ => cases he

/-- Settles O17: link frames with bytes behind them, so also without; SPI transactions alone. -/
theorem decodeEncode : Obligations.DecodeEncode := by
  refine ⟨fun i bs hw he => ?_, fun i bs rest hw he hl => decode_encode_append rest hw he hl⟩
  cases hl : responseBytes i with
  | none => exact decode_encode_spi hw he hl
  | some n => simpa using decode_encode_append [] hw he (by simp [hl])

/-! What a decoder of a link frame accepts. -/

theorem eq_of_decodeByteFrame {mk : Bytes → Instr} {r rest : Bytes} {i : Instr} (h : decodeByteFrame mk r = .ok i rest) :
    ∃ p, i = mk p ∧ 1 ≤ p.length ∧ p.length ≤ Config.maxFrame ∧
      r = lo8 (p.length - 1) :: hi8 (p.length - 1) :: (p ++ rest) := by
  unfold decodeByteFrame at h
  split at h
  next l hi q =>
    split at h
    next => cases h
    next hlen =>
      cases h
      have htake : (q.take (le16 l hi + 1)).length = le16 l hi + 1 := by simp; omega
      have hlt := le16_lt l hi
      refine ⟨_, rfl, by omega, by simp only [Config.maxFrame]; omega, ?_⟩
      rw [htake, Nat.add_sub_cancel, lo8_le16, hi8_le16, List.take_append_drop]
  next => cases h

theorem eq_of_decodeBits {r rest : Bytes} {i : Instr} (h : decodeBits r = .ok i rest) :
    ∃ K v, i = .lfBits K v ∧ r = BitVec.ofNat 8 K.toNat :: v :: rest := by
  unfold decodeBits at h
  split at h
  next k v r' =>
    split at h
    next hk =>
      cases h
      refine ⟨_, v, rfl, ?_⟩
      rw [BitVec.toNat_ofNat, Nat.mod_eq_of_lt hk, BitVec.ofNat_toNat, BitVec.setWidth_eq]
    next => cases h
  next => cases h

theorem eq_of_decodeGset {r rest : Bytes} {i : Instr} (h : decodeGset r = .ok i rest) :
    ∃ v, i = .lfGset v ∧ r = v :: Config.gpioDirMask :: rest := by
  unfold decodeGset at h
  split at h
  next v d r' =>
    split at h
    next hd => cases h; exact ⟨v, rfl, by rw [hd]⟩
    next => cases h
  next => cases h

theorem eq_of_decodeDiv {r rest : Bytes} {i : Instr} (h : decodeDiv r = .ok i rest) :
    ∃ d : BitVec 16, i = .lfDiv d ∧ r = lo8 d.toNat :: hi8 d.toNat :: rest := by
  unfold decodeDiv at h
  split at h
  next l hi r' =>
    cases h
    refine ⟨_, rfl, ?_⟩
    rw [BitVec.toNat_ofNat, Nat.mod_eq_of_lt (le16_lt l hi), lo8_le16, hi8_le16]
  next => cases h

/-! The decoders of SPI transactions give no link frame. -/

theorem responseBytes_of_decodeExact {i j : Instr} {want r rest : Bytes} (hi : responseBytes i = none)
    (h : decodeExact i want r = .ok j rest) : responseBytes j = none := by
  unfold decodeExact at h
  split_ifs at h
  cases h
  exact hi

theorem responseBytes_of_decodePageProgram {r rest : Bytes} {i : Instr} (h : decodePageProgram r = .ok i rest) :
    responseBytes i = none := by
  unfold decodePageProgram at h
  split at h
  next =>
    split_ifs at h
    cases h
    rfl
  next => cases h

theorem responseBytes_of_decodeBlockErase {r rest : Bytes} {i : Instr} (h : decodeBlockErase r = .ok i rest) :
    responseBytes i = none := by
  unfold decodeBlockErase at h
  split at h
  next => cases h; rfl
  next => cases h
  next => cases h

theorem responseBytes_of_decodeReadData {r rest : Bytes} {i : Instr} (h : decodeReadData r = .ok i rest) :
    responseBytes i = none := by
  unfold decodeReadData at h
  split at h
  next =>
    split_ifs at h
    cases h
    rfl
  next => cases h

theorem responseBytes_of_decodeJedec {r rest : Bytes} {i : Instr} (h : decodeJedec r = .ok i rest) :
    responseBytes i = none := by
  unfold decodeJedec at h
  split_ifs at h
  cases h
  rfl

theorem responseBytes_of_decode_spi {op : Byte} {r rest : Bytes} {i : Instr}
    (hop : op ∈ [(0x06 : Byte), 0x05, 0x01, 0x02, 0xD8, 0xC7, 0xB9, 0xAB, 0x9F, 0x03, 0xFF])
    (h : decode (op :: r) = .ok i rest) : responseBytes i = none := by
  simp only [List.mem_cons, List.not_mem_nil, or_false] at hop
  obtain rfl | rfl | rfl | rfl | rfl | rfl | rfl | rfl | rfl | rfl | rfl := hop
  · exact responseBytes_of_decodeExact (i := .spiWriteEnable) rfl h
  · exact responseBytes_of_decodeExact (i := .spiReadStatus1) rfl h
  · exact responseBytes_of_decodeExact (i := .spiWriteStatus) rfl h
  · exact responseBytes_of_decodePageProgram h
  · exact responseBytes_of_decodeBlockErase h
  · exact responseBytes_of_decodeExact (i := .spiChipErase) rfl h
  · exact responseBytes_of_decodeExact (i := .spiPowerDown) rfl h
  · exact responseBytes_of_decodeExact (i := .spiReleasePowerDown) rfl h
  · exact responseBytes_of_decodeJedec h
  · exact responseBytes_of_decodeReadData h
  · exact responseBytes_of_decodeExact (i := .spiReset) rfl h

/-- Settles O20: each of the decoder's nineteen comparisons fails (R80, R88). -/
theorem reservedOpcodes : Obligations.ReservedOpcodes := by
  intro op r hop
  simp only [List.mem_cons, List.not_mem_nil, or_false, not_or] at hop
  simp only [decode, hop, if_false]

/-- What decodes as a link frame begins with a link opcode: the other opcodes decode as SPI transactions or not at
all. -/
theorem mem_linkOpcodes_of_decode {op : Byte} {r rest : Bytes} {i : Instr} (h : decode (op :: r) = .ok i rest)
    (hl : (responseBytes i).isSome = true) : op ∈ [(0x11 : Byte), 0x31, 0x33, 0x80, 0x81, 0x83, 0x8B, 0x86] := by
  by_contra hlink
  by_cases hspi : op ∈ [(0x06 : Byte), 0x05, 0x01, 0x02, 0xD8, 0xC7, 0xB9, 0xAB, 0x9F, 0x03, 0xFF]
  · rw [responseBytes_of_decode_spi hspi h] at hl
    cases hl
  · rw [reservedOpcodes op r fun hmem => (List.mem_append (s := [_, _, _, _, _, _, _, _]).mp hmem).elim hlink hspi] at h
    cases h

/-- Settles O18: the first byte picks the decoder, and the decoder of a link frame accepts only encodings. -/
theorem encodeDecode : Obligations.EncodeDecode := by
  intro bs i rest h hl
  cases bs with
  | nil => cases h
  | cons op r =>
    have hop := mem_linkOpcodes_of_decode h hl
    simp only [List.mem_cons, List.not_mem_nil, or_false] at hop
    obtain rfl | rfl | rfl | rfl | rfl | rfl | rfl | rfl := hop
    · obtain ⟨p, rfl, h1, h2, rfl⟩ := eq_of_decodeByteFrame (mk := .lfBo) h
      exact ⟨decide_eq_true ⟨h1, h2⟩, _, rfl, rfl⟩
    · obtain ⟨p, rfl, h1, h2, rfl⟩ := eq_of_decodeByteFrame (mk := .lfBx) h
      exact ⟨decide_eq_true ⟨h1, h2⟩, _, rfl, rfl⟩
    · obtain ⟨K, v, rfl, rfl⟩ := eq_of_decodeBits h
      exact ⟨rfl, _, rfl, rfl⟩
    · obtain ⟨v, rfl, rfl⟩ := eq_of_decodeGset h
      exact ⟨rfl, _, rfl, rfl⟩
    · cases h; exact ⟨rfl, _, rfl, rfl⟩
    · cases h; exact ⟨rfl, _, rfl, rfl⟩
    · cases h; exact ⟨rfl, _, rfl, rfl⟩
    · obtain ⟨d, rfl, rfl⟩ := eq_of_decodeDiv h
      exact ⟨rfl, _, rfl, rfl⟩

/-- Settles O19: the words are concrete, so the decoder computes their instructions. -/
theorem sampleWords : Obligations.SampleWords := by
  unfold Obligations.SampleWords
  decide

/-! Splitting a stream of frames. -/

theorem encode_of_link {f : Instr} (hl : (responseBytes f).isSome = true) : ∃ b bs, encode f = some (b :: bs) := by
  cases f with
  | lfBo | lfBx | lfBits | lfGset | lfGrdLow | lfGrdHigh | lfClk5 | lfDiv => exact ⟨_, _, rfl⟩
  | _ => cases hl

/-- Each frame is split off by its own decoding, so fuel for one frame per byte is enough (R80). -/
theorem splitFrames_framesBytes (fs : List Instr) (fuel : Nat)
    (h : ∀ f ∈ fs, f.wf = true ∧ (responseBytes f).isSome = true) (hfuel : (framesBytes fs).length ≤ fuel) :
    splitFrames fuel (framesBytes fs) = some fs := by
  induction fs generalizing fuel with
  | nil => cases fuel <;> rfl
  | cons f fs ih =>
    obtain ⟨hw, hl⟩ := h f (by simp)
    obtain ⟨b, bs, he⟩ := encode_of_link hl
    have hbytes : framesBytes (f :: fs) = b :: (bs ++ framesBytes fs) := by simp [framesBytes, he]
    rw [hbytes] at hfuel ⊢
    obtain ⟨k, rfl⟩ : ∃ k, fuel = k + 1 := ⟨fuel - 1, by simp only [List.length_cons] at hfuel; omega⟩
    have hrest : splitFrames k (framesBytes fs) = some fs :=
      ih k (fun g hg => h g (by simp [hg])) (by simp only [List.length_cons, List.length_append] at hfuel; omega)
    rw [splitFrames, ← List.cons_append, decode_encode_append (framesBytes fs) hw he hl]
    simp [hl, hrest]

/-- Settles O21: `splitFrames_framesBytes` with the stream's own length as fuel. -/
theorem splitFrames_splits : Obligations.SplitFrames :=
  fun fs h => splitFrames_framesBytes fs _ h le_rfl

end Sys2Proof.Machine
end

section
/-! The request stream and the host's reads (R18, R20, R172). -/

namespace Sys2Proof.Machine

/-- Settles O4: what `fetch` takes from each kind of stream is what `step` runs. -/
theorem stepRunsInstruction : Obligations.StepRunsInstruction := by
  refine ⟨fun s i q hq => ?_, fun s bs i q hq hd => ?_, fun s bs i b rest q hq hd => ?_, fun s bs e q hq hd => ?_,
    fun s hq => ?_⟩
  · simp only [step, fetch, hq]
  · simp only [step, fetch, hq, hd]
  · simp only [step, fetch, hq, hd]
  · simp only [step, fetch, hq, hd]
  · simp only [step, fetch, hq]

theorem orUndefined_eq_value {α : Type} {mk : α → RegVal} (inj : ∀ a b, mk a = mk b → a = b) (x : Option α) (v : α) :
    orUndefined mk x = .value (mk v) ↔ x = some v := by
  cases x with
  | none => simp [orUndefined]
  | some w => simpa [orUndefined] using ⟨inj w v, congrArg mk⟩

theorem orUndefined_eq_faulted {α : Type} (mk : α → RegVal) (x : Option α) :
    orUndefined mk x = .faulted .undefined ↔ x = none := by
  cases x <;> simp [orUndefined]

theorem cdone_eq (s : State) : cdone s = s.gpioInLo.map fun v => v.getLsbD 6 := rfl

/-- Settles O16: thirteen registers are read through `orUndefined`, with an injective kind each; the other eight and
CDONE by their definition. -/
theorem hostReads : Obligations.HostReads := by
  intro s
  refine ⟨orUndefined_eq_value (by simp) _, orUndefined_eq_value (by simp) _, orUndefined_eq_value (by simp) _,
    orUndefined_eq_value (by simp) _, orUndefined_eq_value (by simp) _, orUndefined_eq_value (by simp) _,
    orUndefined_eq_value (by simp) _, orUndefined_eq_value (by simp) _, orUndefined_eq_value (by simp) _,
    orUndefined_eq_value (by simp) _, orUndefined_eq_value (by simp) _, orUndefined_eq_value (by simp) _,
    orUndefined_eq_value (by simp) _, orUndefined_eq_faulted _ _, orUndefined_eq_faulted _ _,
    orUndefined_eq_faulted _ _, orUndefined_eq_faulted _ _, orUndefined_eq_faulted _ _, orUndefined_eq_faulted _ _,
    orUndefined_eq_faulted _ _, orUndefined_eq_faulted _ _, orUndefined_eq_faulted _ _, orUndefined_eq_faulted _ _,
    orUndefined_eq_faulted _ _, orUndefined_eq_faulted _ _, orUndefined_eq_faulted _ _, rfl, rfl, rfl, rfl, rfl, rfl,
    rfl, rfl, fun v hv => ?_, fun hnone => ?_⟩
  · rw [cdone_eq, hv, Option.map_some]
  · rw [cdone_eq, hnone, Option.map_none]

end Sys2Proof.Machine
end

section
/-! `OPEN`, `CLOSE` and `ABORT` with the transport's answers held: each control call goes on or ends the request (R97, R98,
R109 to R112). -/

namespace Sys2Proof.Machine

@[simp] theorem Res.bind_ok {α β : Type} (a : α) (s : State) (k : α → State → Res β) : (Res.ok a s).bind k = k a s := rfl

/-! A control call at the head of a request. -/

theorem ctrl_bind_success {α : Type} {op : CtrlOp} {s : State} {v : Byte} {c : List CtrlAns}
    {k : Byte → State → Res α} (h : s.ctrls = .success v :: c) :
    (ctrl op s).bind k = k v (s.controlled [.ctrl op (ctrlResult op (.success v))] c) := by
  rw [ctrl_success op s v c h]
  rfl

theorem ctrl_bind_failure {α : Type} {op : CtrlOp} {s : State} {c : List CtrlAns} {k : Byte → State → Res α}
    (h : s.ctrls = .failure :: c) : (ctrl op s).bind k = .raised .ctrlFail (s.controlled [.ctrl op .failure] c) := by
  rw [ctrl_failure op s c h]
  rfl

theorem ctrlCall_held {op : CtrlOp} {s : State} {a : CtrlAns} {c : List CtrlAns} (h : s.ctrls = a :: c) :
    ctrlCall op s = (a, s.controlled [.ctrl op (ctrlResult op a)] c) := by
  simp [ctrlCall, drawCtrl, h, State.log, State.linked]

theorem ctrl_bind_eq_faulted {α : Type} {op : CtrlOp} {s u : State} {f : FCode} {k : Byte → State → Res α}
    (h : (ctrl op s).bind k = .faulted f u) : ∃ v t, k v t = .faulted f u := by
  have hrun := ctrl_run [] (0, 0) op s
  cases hcall : ctrl op s with
  | ok v t => rw [hcall] at h; exact ⟨v, t, h⟩
  | raised c t => rw [hcall] at h; cases h
  | faulted g t => exact absurd hcall hrun.ne_faulted
  | hung => rw [hcall] at h; cases h

theorem conclude_raised {α : Type} (l : Layer) (ret : α → Result) (c : Cause) (s : State) :
    conclude l ret (.raised c s) = .next (raiseError c l s) := rfl

/-! `OPEN`. -/

/-- `s` after the six control calls of `OPEN`, with the registers set between them and after the last (R97). -/
def State.broughtUp (s : State) (evs : List LinkEvent) (v : Byte) (c : List CtrlAns) : State :=
  { s.controlled evs c with
    err := none
    handle := true
    latSaved := some v
    latCaptured := true
    gpioDir := some Config.gpioDirAllOut
    gpioVal := none }

/-- `s` with the registers the last step of `OPEN` writes (R97). -/
def State.freshlyOpened (s : State) : State :=
  { s with
    flashPwr := .unknown
    status := none
    gpioInLo := none
    gpioInHi := none
    bitsIn := none
    jedecMfr := none
    jedecDev := none
    jedecExtlen := none
    jedecExt := none
    session := .opened }

/-- With the six calls answered, the two frames are left, and then the registers of the last step. -/
theorem openOp_of_successes (slow : Bool) {s : State} {a1 a2 a3 v a5 a6 : Byte} {c : List CtrlAns}
    (hs : s.session = .closed)
    (hc : s.ctrls = .success a1 :: .success a2 :: .success a3 :: .success v :: .success a5 :: .success a6 :: c) :
    openOp slow s =
      (txWrite [0x8B] (s.broughtUp (ctrlEvents openCalls
        [.success a1, .success a2, .success a3, .success v, .success a5, .success a6]) v c)).bind
        fun _ t => (divOp (divisorOf slow) t).bind fun _ u => .ok () u.freshlyOpened := by
  rw [openOp, if_neg (by simp [hs]), ctrl_bind_success (by exact hc), ctrl_bind_success rfl, ctrl_bind_success rfl,
    ctrl_bind_success rfl, ctrl_bind_success rfl, ctrl_bind_success rfl, clk5Op]
  refine congrArg₂ Res.bind (congrArg (txWrite [0x8B]) ?_) rfl
  simp [State.broughtUp, State.linked, ctrlEvents, openCalls]

/-- A divisor frame in full records the operand of `OPEN` (R24). -/
theorem divOp_divisorOf_full {slow : Bool} {s : State} {w : List WriteAns} (h : s.writes = .full :: w) :
    divOp (divisorOf slow) s = .ok () { s.sent [wrote (divFrame (divisorOf slow))] w with
      slow := some slow, clkdiv := some (divisorOf slow) } := by
  rw [divOp, txWrite_full _ s w h]
  cases slow <;> rfl

/-- Settles O22: `openOp_of_successes`, and the two writes in full. -/
theorem openCompletes : Obligations.OpenCompletes := by
  intro s slow a1 a2 a3 v a5 a6 c w hs hc hw
  rw [exec_openReq, openOp_of_successes slow hs hc, txWrite_full _ _ (.full :: w) (by exact hw)]
  rw [Res.bind_ok, divOp_divisorOf_full (w := w) rfl, Res.bind_ok]
  cases slow <;>
    simp [State.reply, State.freshlyOpened, State.broughtUp, State.linked, ctrlEvents, openCalls, ctrlResult, divFrame, divisorOf, lo8, hi8]

theorem eq_of_length_six {vs : Bytes} (h : vs.length = 6) :
    ∃ a1 a2 a3 a4 a5 a6, vs = [a1, a2, a3, a4, a5, a6] := by
  match vs, h with
  | [a1, a2, a3, a4, a5, a6], _ => exact ⟨a1, a2, a3, a4, a5, a6, rfl⟩

/-- Settles O24: the calls before the failing one succeed and set their registers, the failing one ends the request. -/
theorem openStopsAtFirstFailure : Obligations.OpenStopsAtFirstFailure := by
  refine ⟨fun s slow vs c hk hs hc => ?_, fun s slow vs c n p w hs hvs hc hw hn => ?_,
    fun s slow vs c n p w hs hvs hc hw hn => ?_⟩
  · rw [exec_openReq, openOp, if_neg (by simp [hs])]
    obtain _ | ⟨a1, _ | ⟨a2, _ | ⟨a3, _ | ⟨a4, _ | ⟨a5, _ | ⟨a6, vs⟩⟩⟩⟩⟩⟩ := vs
    · rw [ctrl_bind_failure (by exact hc)]
      exact ⟨_, rfl, rfl, rfl, by simp [ctrlEvents, openCalls], rfl, rfl, rfl, rfl, rfl, rfl, rfl⟩
    · rw [ctrl_bind_success (by exact hc), ctrl_bind_failure rfl]
      exact ⟨_, rfl, rfl, rfl, by simp [ctrlEvents, openCalls], rfl, rfl, rfl, rfl, rfl, rfl, rfl⟩
    · rw [ctrl_bind_success (by exact hc), ctrl_bind_success rfl, ctrl_bind_failure rfl]
      exact ⟨_, rfl, rfl, rfl, by simp [ctrlEvents, openCalls], rfl, rfl, rfl, rfl, rfl, rfl, rfl⟩
    · rw [ctrl_bind_success (by exact hc), ctrl_bind_success rfl, ctrl_bind_success rfl, ctrl_bind_failure rfl]
      exact ⟨_, rfl, rfl, rfl, by simp [ctrlEvents, openCalls], rfl, rfl, rfl, rfl, rfl, rfl, rfl⟩
    · rw [ctrl_bind_success (by exact hc), ctrl_bind_success rfl, ctrl_bind_success rfl, ctrl_bind_success rfl,
        ctrl_bind_failure rfl]
      exact ⟨_, rfl, rfl, rfl, by simp [ctrlEvents, openCalls], rfl, rfl, rfl, rfl, rfl, rfl, rfl⟩
    · rw [ctrl_bind_success (by exact hc), ctrl_bind_success rfl, ctrl_bind_success rfl, ctrl_bind_success rfl,
        ctrl_bind_success rfl, ctrl_bind_failure rfl]
      exact ⟨_, rfl, rfl, rfl, by simp [ctrlEvents, openCalls], rfl, rfl, rfl, rfl, rfl, rfl, rfl⟩
    · exact absurd hk (by simp)
  · obtain ⟨a1, a2, a3, v, a5, a6, rfl⟩ := eq_of_length_six hvs
    rw [exec_openReq, openOp_of_successes slow hs hc, txWrite_short _ _ n p w (by exact hw) (by simpa using hn)]
    exact ⟨_, rfl, rfl, rfl, by simp [State.broughtUp], rfl, rfl, rfl, rfl, rfl, rfl, rfl⟩
  · obtain ⟨a1, a2, a3, v, a5, a6, rfl⟩ := eq_of_length_six hvs
    rw [exec_openReq, openOp_of_successes slow hs hc, txWrite_full _ _ (.count n p :: w) (by exact hw)]
    rw [Res.bind_ok, divOp, txWrite_short _ _ n p w rfl (by simpa [divFrame] using hn)]
    exact ⟨_, rfl, rfl, rfl, by simp [State.broughtUp, divFrame], rfl, rfl, rfl, rfl⟩

/-! `CLOSE`. -/

theorem safeToClose_iff (s : State) : safeToClose s = true ↔ s.gpioVal = some 0x90 ∧ s.flashPwr = .down :=
  decide_eq_true_iff

/-- Past its checks `CLOSE` is its three control calls (R109). -/
theorem closeOp_of_checks {s : State} {v : Byte} (hs : s.session = .opened) (hg : s.gpioVal = some 0x90)
    (hp : s.flashPwr = .down) (hl : s.latSaved = some v) :
    closeOp s = (ctrl (.setLatency v) s).bind fun _ s1 => (ctrl (.setBitmode 0x00 .reset) s1).bind fun _ s2 =>
      (ctrl .release s2).bind fun _ s3 => .ok () { s3 with handle := false, latCaptured := false, session := .closed } := by
  rw [closeOp, if_neg (by simp [hs]), if_neg (by simp [(safeToClose_iff s).mpr ⟨hg, hp⟩])]
  simp only [hl]

/-- Settles O25: `closeOp_of_checks` with three successes. -/
theorem closeCompletes : Obligations.CloseCompletes := by
  intro s v a1 a2 a3 c hs hg hp hl hc
  rw [exec_closeReq, closeOp_of_checks hs hg hp hl, ctrl_bind_success hc, ctrl_bind_success rfl, ctrl_bind_success rfl]
  simp [State.reply, State.linked, ctrlResult]

theorem closeOp_ne_unsafeClose {s u : State} (hg : s.gpioVal = some 0x90) (hp : s.flashPwr = .down) :
    closeOp s ≠ .faulted .unsafeClose u := by
  intro h
  by_cases hs : s.session = .opened
  · cases hl : s.latSaved with
    | none =>
      rw [closeOp, if_neg (by simp [hs]), if_neg (by simp [(safeToClose_iff s).mpr ⟨hg, hp⟩])] at h
      simp only [hl] at h
      cases h
    | some v =>
      rw [closeOp_of_checks hs hg hp hl] at h
      obtain ⟨_, _, h⟩ := ctrl_bind_eq_faulted h
      obtain ⟨_, _, h⟩ := ctrl_bind_eq_faulted h
      obtain ⟨_, _, h⟩ := ctrl_bind_eq_faulted h
      cases h
  · rw [closeOp_notOpened hs] at h
    cases h

/-- Settles O26: the safe-state check decides the fault; past it the first call that fails ends the request before the
registers are released. -/
theorem closeRefusesOrRaises : Obligations.CloseRefusesOrRaises := by
  refine ⟨fun s hs hunsafe => ?_, fun s t hg hp hexec hanswer => ?_, fun s v vs c hs hg hp hl hlen hc => ?_⟩
  · have hcheck : ¬safeToClose s = true := by
      rw [safeToClose_iff]
      tauto
    rw [exec_closeReq, closeOp, if_neg (by simp [hs]), if_pos (by simpa using hcheck), conclude_faulted]
  · rw [exec_closeReq] at hexec
    obtain ⟨u, hfault⟩ := eq_faulted_of_conclude_answer hexec hanswer
    exact closeOp_ne_unsafeClose hg hp hfault
  · rw [exec_closeReq, closeOp_of_checks hs hg hp hl]
    obtain _ | ⟨a1, _ | ⟨a2, _ | ⟨a3, vs⟩⟩⟩ := vs
    · rw [ctrl_bind_failure hc]
      exact ⟨_, rfl, rfl, rfl, by simp, rfl, rfl⟩
    · rw [ctrl_bind_success hc, ctrl_bind_failure rfl]
      exact ⟨_, rfl, rfl, rfl, by simp, rfl, rfl⟩
    · rw [ctrl_bind_success hc, ctrl_bind_success rfl, ctrl_bind_failure rfl]
      exact ⟨_, rfl, rfl, rfl, by simp, rfl, rfl⟩
    · exact absurd hlen (by simp)

/-! `ABORT`. -/

/-- With the handle held, `ABORT` is the drain, the restore and the release (R111). -/
theorem abortOp_of_handle {s : State} (hh : s.handle = true) :
    abortOp s = (drain s).bind fun _ t => .ok () { (ctrlCall .release (restoreLatency t)).2 with
      handle := false, latCaptured := false, session := .closed } := if_pos hh

theorem drain_bytes {s : State} {ds : Bytes} {a : ReadAns} {r : List ReadAns} (hr : s.reads = byteReads ds ++ a :: r)
    (ha : ∀ b, a ≠ .byte b) (hf : ds.length ≤ s.opts.fuel) :
    drain s = .ok () { s.moved (readEvents ds ++ [.read a]) s.writes r with
      warnlog := s.warnlog ++ ds.map .unexpectedRx } :=
  drainLoop_bytes ds _ a r s hr ha (Nat.lt_succ_of_le hf)

theorem restoreLatency_captured {s : State} {v : Byte} (hcap : s.latCaptured = true) (hl : s.latSaved = some v) :
    restoreLatency s = (ctrlCall (.setLatency v) s).2 := by
  unfold restoreLatency
  simp only [hcap, hl]

theorem restoreLatency_skipped {s : State} (h : s.latCaptured = false ∨ s.latSaved = none) : restoreLatency s = s := by
  unfold restoreLatency
  split
  · simp_all
  · rfl
  · rfl

/-- Settles O27: the drain of held bytes, then the calls on the control answers held; a drain of more bytes than the fuel
is the hang. -/
theorem abortTeardown : Obligations.AbortTeardown := by
  refine ⟨fun s v ds a r x y c hh hcap hl hr ha hf hc => ?_, fun s ds a r y c hh hskip hr ha hf hc => ?_,
    fun s hh => ?_, fun s ds r hh hr hlen => ?_⟩
  · rw [exec_abortReq, abortOp_of_handle hh, drain_bytes hr ha hf]
    rw [Res.bind_ok, restoreLatency_captured (v := v) (by exact hcap) (by exact hl), ctrlCall_held (op := .setLatency v) (a := x) (c := y :: c) (by exact hc),
      ctrlCall_held (a := y) (c := c) rfl]
    simp [State.reply, State.linked]
  · rw [exec_abortReq, abortOp_of_handle hh, drain_bytes hr ha hf]
    rw [Res.bind_ok, restoreLatency_skipped (by exact hskip), ctrlCall_held (a := y) (c := c) (by exact hc)]
    simp [State.reply, State.linked]
  · rw [exec_abortReq, abortOp, if_neg (by simp [hh])]
    rfl
  · have hdrain : drain s = .hung := by
      rw [drain, turns, Nat.succ_eq_add_one, ← hlen]
      exact drainLoop_hung ds r s hr
    rw [exec_abortReq, abortOp_of_handle hh, hdrain]
    rfl

end Sys2Proof.Machine
end

section
/-! Transfers: their checks in order, the writes of their frame, and the receive loop (R99 to R105, R120, R121, R173). -/

namespace Sys2Proof.Machine

/-! The engine's reading requests and the frame rows as instructions (R73 to R75, R105, R107; log 9). -/

theorem exec_lfBo (payload : Bytes) (s : State) :
    exec (.lfBo payload) s = conclude .engine (fun _ => .unit) (sendOp 0x11 payload s) := rfl

theorem exec_lfBx (payload : Bytes) (s : State) :
    exec (.lfBx payload) s = conclude .engine .bytes (xferOp 0x31 (.own payload) payload.length s) := rfl

theorem exec_lfBits (K : BitVec 3) (v : Byte) (s : State) :
    exec (.lfBits K v) s = conclude .engine .byte (xbitsOp v (K.toNat + 1) s) := rfl

theorem exec_xbits (v : Byte) (k : Nat) (s : State) : exec (.xbits v k) s = conclude .engine .byte (xbitsOp v k s) := rfl

theorem exec_rdGpioL (s : State) : exec .rdGpioL s = conclude .engine .byte (rdGpioLOp s) := rfl

theorem exec_setGpio (v d : Byte) (s : State) :
    exec (.setGpio v d) s = conclude .engine (fun _ => .unit) (setGpioOp v d s) := rfl

/-! Link events in a row. -/

theorem sent_sent (s : State) (e e' : List LinkEvent) (w w' : List WriteAns) :
    (s.sent e w).sent e' w' = s.sent (e ++ e') w' := linked_linked ..

theorem sent_moved (s : State) (e e' : List LinkEvent) (w w' : List WriteAns) (r : List ReadAns) :
    (s.sent e w).moved e' w' r = s.moved (e ++ e') w' r := linked_linked ..

/-! `SEND` and `BSEND` past their checks. -/

theorem frameEvents_of_ne_nil {op : Byte} {payload : Bytes} (h : payload ≠ []) :
    frameEvents op payload = [wrote (byteHeader op payload.length), wrote payload] := if_neg h

theorem ne_nil_of_one_le_length {bs : Bytes} (h : 1 ≤ bs.length) : bs ≠ [] := List.ne_nil_of_length_pos h

/-- An admitted `BSEND` is the `SEND` of its first bytes (R120). -/
theorem bsendOp_of_le {data : Bytes} {n : Nat} {s : State} (hs : s.session = .opened) (hn : n ≤ data.length) :
    bsendOp data n s = sendOp 0x11 (data.take n) s := by
  rw [bsendOp, if_neg (by simp [hs]), if_neg (by omega)]

/-- Settles O29: each of the three is the `SEND` of `bs`, whose two writes are answered in full. -/
theorem sendCompletes : Obligations.SendCompletes := by
  intro s bs w hs h1 hmax hw
  have hsend := sendOp_full bs s w hs (ne_nil_of_one_le_length h1) hmax hw
  refine ⟨fun data hdata => ?_, fun data n hn hdata => ?_, ?_⟩
  · rw [exec_send, hdata, hsend, conclude_ok]
  · rw [exec_bsend, bsendOp_of_le hs hn, hdata, hsend, conclude_ok]
  · rw [exec_lfBo, hsend, conclude_ok]

/-- An admitted `SEND` of at least one byte is its two writes (R101). -/
theorem sendOp_eq_writes {data : Bytes} {s : State} (hs : s.session = .opened) (h1 : 1 ≤ data.length)
    (hmax : data.length ≤ Config.maxFrame) :
    sendOp 0x11 data s = (txWrite (byteHeader 0x11 data.length) s).bind fun _ t => txWrite data t := by
  rw [sendOp, if_neg (by simp [hs]), if_neg (by simp), if_neg (by omega), if_neg (by omega)]

theorem sendOp_short_header {data : Bytes} {s : State} {n : Int} {p : Nat} {w : List WriteAns} (hs : s.session = .opened)
    (h1 : 1 ≤ data.length) (hmax : data.length ≤ Config.maxFrame) (hw : s.writes = .count n p :: w) (hn : n ≠ 3) :
    sendOp 0x11 data s =
      .raised .shortWrite (s.sent [.write (byteHeader 0x11 data.length) n (min p 3)] w) := by
  rw [sendOp_eq_writes hs h1 hmax, txWrite_short _ s n p w hw (by simpa [byteHeader] using hn)]
  rfl

theorem sendOp_short_payload {data : Bytes} {s : State} {n : Int} {p : Nat} {w : List WriteAns}
    (hs : s.session = .opened) (h1 : 1 ≤ data.length) (hmax : data.length ≤ Config.maxFrame)
    (hw : s.writes = .full :: .count n p :: w) (hn : n ≠ data.length) :
    sendOp 0x11 data s =
      .raised .shortWrite (s.sent [wrote (byteHeader 0x11 data.length), .write data n (min p data.length)] w) := by
  rw [sendOp_eq_writes hs h1 hmax, txWrite_full _ s _ hw, Res.bind_ok, txWrite_short data _ n p w rfl hn, sent_sent]
  rfl

theorem exec_send_list {bs : Bytes} {s : State} :
    exec (.send 0x11 (.list bs)) s = conclude .engine (fun _ => .unit) (sendOp 0x11 bs s) := rfl

/-- `BSEND` of a whole list is the `SEND` of it (R120). -/
theorem exec_bsend_list {bs : Bytes} {s : State} (hs : s.session = .opened) :
    exec (.bsend (.list bs) none) s = conclude .bus (fun _ => .unit) (sendOp 0x11 bs s) := by
  have hcount : dataCount none bs = bs.length := rfl
  have hdata : dataBytes (.list bs) s.mem = bs := rfl
  rw [exec_bsend, hdata, hcount, bsendOp_of_le hs le_rfl, List.take_length]

/-- Settles O31: both requests are the `SEND` of `bs`, at their own layer. -/
theorem shortWriteRaises : Obligations.ShortWriteRaises := by
  intro s bs n p w hs h1 hmax
  refine ⟨fun hw hn => ?_, fun hw hn => ?_⟩
  · rw [exec_send_list, exec_bsend_list hs, sendOp_short_header hs h1 hmax hw hn]
    exact ⟨rfl, rfl⟩
  · rw [exec_send_list, exec_bsend_list hs, sendOp_short_payload hs h1 hmax hw hn]
    exact ⟨rfl, rfl⟩

/-! `XFER` past its checks. -/

theorem readBytes_ne_nil {m : Memory} {a n : Nat} (hn : n ≠ 0) : readBytes m a n ≠ [] := by
  rw [← List.length_pos_iff, readBytes_length]
  omega

theorem xferOp_host_delayed {buf : Buf} {n : Nat} {ds : List (Nat × Byte)} {s : State} {w : List WriteAns}
    {r : List ReadAns} (hs : s.session = .opened) (h0 : n ≠ 0) (hmax : n ≤ Config.maxFrame) (hb : n ≤ buf.len)
    (hw : s.writes = .full :: .full :: w) (hr : s.reads = delayedReads ds ++ r) (hn : ds.length = n)
    (hj : ∀ d ∈ ds, PollsFit s.opts d.1) :
    xferOp 0x31 (.host buf) n s = .ok (ds.map Prod.snd)
      { s.moved (frameEvents 0x31 (readBytes s.mem buf.base n) ++ delayedEvents ds) w r with
        mem := writeBytes s.mem buf.base (ds.map Prod.snd) } := by
  rw [xferOp_delayed (.host buf) n ds s w r hs h0 hmax hb hw hr hn hj, frameEvents_of_ne_nil (readBytes_ne_nil h0),
    readBytes_length]
  rfl

theorem xferOp_own_delayed {bs : Bytes} {ds : List (Nat × Byte)} {s : State} {w : List WriteAns} {r : List ReadAns}
    (hs : s.session = .opened) (h1 : 1 ≤ bs.length) (hmax : bs.length ≤ Config.maxFrame)
    (hw : s.writes = .full :: .full :: w) (hr : s.reads = delayedReads ds ++ r) (hn : ds.length = bs.length)
    (hj : ∀ d ∈ ds, PollsFit s.opts d.1) :
    xferOp 0x31 (.own bs) bs.length s =
      .ok (ds.map Prod.snd) (s.moved (frameEvents 0x31 bs ++ delayedEvents ds) w r) := by
  rw [xferOp_delayed (.own bs) bs.length ds s w r hs (by omega) hmax le_rfl hw hr hn hj,
    frameEvents_of_ne_nil (ne_nil_of_one_le_length h1)]
  simp [xferBytes, xferDst, storedMem, State.linked]

/-- Settles O32: `XFER` and `BXFER` are the transfer on the buffer, LF-BX the one on its own payload. -/
theorem xferCompletes : Obligations.XferCompletes := by
  refine ⟨fun s buf n ds w r hs h1 hmax hb hw hr hn hj => ?_, fun s bs ds w r hs h1 hmax hw hr hn hj => ?_⟩
  · have hxfer := xferOp_host_delayed hs (by omega) hmax hb hw hr hn hj
    refine ⟨?_, fun k hk => ?_⟩
    · rw [exec_xfer, hxfer]
      rfl
    · rw [exec_bxfer, hk, bxferOp, hxfer]
      rfl
  · rw [exec_lfBx, xferOp_own_delayed hs h1 hmax hw hr hn hj, conclude_ok]

/-- An admitted `XFER` of at least one byte whose writes are full goes on to the receive of its bytes (R103). -/
theorem xferOp_host_eq_recvMany {buf : Buf} {n : Nat} {s : State} {w : List WriteAns} (hs : s.session = .opened)
    (h0 : n ≠ 0) (hmax : n ≤ Config.maxFrame) (hb : n ≤ buf.len) (hw : s.writes = .full :: .full :: w) :
    xferOp 0x31 (.host buf) n s =
      recvMany (some buf.base) n 0 (s.sent (frameEvents 0x31 (readBytes s.mem buf.base n)) w) := by
  have hlen : ¬xferLen (.host buf) < n := by simpa [xferLen] using hb
  rw [xferOp, if_neg (by simp [hs]), if_neg (by simp), if_neg (by omega), if_neg hlen, if_neg h0,
    txWrite_full _ s _ hw, Res.bind_ok, txWrite_full _ _ w rfl, Res.bind_ok, sent_sent,
    frameEvents_of_ne_nil (readBytes_ne_nil h0), readBytes_length]
  rfl

theorem xferOp_host_negative {buf : Buf} {n k : Nat} {rs : Bytes} {s : State} {w : List WriteAns} {r : List ReadAns}
    (hs : s.session = .opened) (hlt : rs.length < n) (hmax : n ≤ Config.maxFrame) (hb : n ≤ buf.len)
    (hw : s.writes = .full :: .full :: w) (hr : s.reads = byteReads rs ++ .negative k :: r) :
    xferOp 0x31 (.host buf) n s = .raised .readNeg
      { s.moved (frameEvents 0x31 (readBytes s.mem buf.base n) ++ readEvents rs ++ [.read (.negative k)]) w r with
        mem := writeBytes s.mem buf.base rs } := by
  rw [xferOp_host_eq_recvMany hs (by omega) hmax hb hw,
    recvMany_negative (some buf.base) rs 0 n k r _ (by exact hr) hlt]
  simp [State.linked, storedMem]

/-- Settles O33: the bytes received before the negative count are stored over the front of the buffer. -/
theorem xferPartial : Obligations.XferPartial := by
  intro s buf n k rs w r hm hs hlt hmax hb hw hr
  refine ⟨_, by rw [exec_xfer, xferOp_host_negative hs hlt hmax hb hw hr, conclude_raised], rfl, ?_, ?_⟩
  · simp
  · exact readBytes_writeBytes_front rs s.mem buf.base n hm (by omega)

/-! `RDGPIOL`: one write, one `RECV1`. -/

theorem rdGpioLOp_of_write {s : State} {w : List WriteAns} (hs : s.session = .opened) (hw : s.writes = .full :: w) :
    rdGpioLOp s = (recv1 (s.sent [wrote [0x81]] w)).bind fun b u => .ok b { u with gpioInLo := some b } := by
  rw [rdGpioLOp, if_neg (by simp [hs]), txWrite_full _ s w hw, Res.bind_ok]

/-- The write before it does not change the bound, so `RECV1` ends. -/
theorem rdGpioLOp_ne_hung {s : State} {p : Nat} (hp : s.opts.pollBound = some p) : rdGpioLOp s ≠ .hung := by
  rw [rdGpioLOp]
  by_cases hs : s.session = .opened
  · rw [if_neg (by simp [hs])]
    have hwrite := txWrite_run [] (0, 0) [0x81] s
    cases hop : txWrite [0x81] s with
    | ok a t =>
      rw [hop] at hwrite
      obtain ⟨evs, hf, -⟩ := hwrite
      have ht : t.opts.pollBound = some p := by rw [hf.opts, hp]
      have hturns : p < 0 + turns t.opts.pollBound t.opts.fuel := by rw [ht]; simp [turns]
      rw [Res.bind_ok]
      exact Res.bind_ne_hung (recvLoop_ne_hung _ 0 p t ht hturns (turns_pos _ _)) fun _ _ => Res.ok_ne_hung _ _
    | raised c t => nofun
    | faulted f t => nofun
    | hung => exact absurd hop (txWrite_ne_hung _ s)
  · rw [if_pos hs]
    nofun

theorem eq_hung_of_conclude {α : Type} {l : Layer} {ret : α → Result} {r : Res α}
    (h : conclude l ret r = .fault .hung) : r = .hung := by
  cases r with
  | hung => rfl
  | _ => cases h

/-- Settles O34: the receive loop of `RDGPIOL`, once for each way it can end. -/
theorem receiveLoop : Obligations.ReceiveLoop := by
  refine ⟨fun s w r hs hw => ⟨fun j b hr hj => ?_, fun j k hr hj => ?_, fun p j hp hj hr => ?_, fun hp hr => ?_⟩,
    fun s p hp hexec => rdGpioLOp_ne_hung hp (eq_hung_of_conclude hexec)⟩
  · rw [exec_rdGpioL, rdGpioLOp_of_write hs hw, recv1_delayed j b r _ (by exact hr) (by exact hj)]
    simp [State.linked, State.reply]
  · rw [exec_rdGpioL, rdGpioLOp_of_write hs hw, recv1,
      recvLoop_negative j _ 0 k r _ (by exact hr) (by exact hj.spec.1) (by exact hj.spec.2)]
    simp [Res.bind, conclude_raised]
  · have hturns : j < turns s.opts.pollBound s.opts.fuel := by rw [hp]; simp only [turns]; omega
    have hbelow : boundReached s.opts.pollBound (0 + j) = false ∨ j = 0 := by
      rw [hp]; simp only [boundReached, decide_eq_false_iff_not]; omega
    have hreached : boundReached s.opts.pollBound (0 + j + 1) = true := by
      rw [hp]; simp only [boundReached, decide_eq_true_eq]; omega
    rw [exec_rdGpioL, rdGpioLOp_of_write hs hw, recv1,
      recvLoop_bound j _ 0 r _ (by exact hr) (by exact hturns) (by exact hbelow)
      (by exact hreached)]
    simp [Res.bind, conclude_raised]
  · have hturns : turns s.opts.pollBound s.opts.fuel = s.opts.fuel + 1 := by rw [hp]; rfl
    rw [exec_rdGpioL, rdGpioLOp_of_write hs hw, recv1, linked_opts, hturns,
      recvLoop_hung _ 0 r _ (by exact hr) (by exact hp)]
    rfl

/-! `XBITS`. -/

theorem xbitsOp_byte {v b : Byte} {k : Nat} {s : State} {w : List WriteAns} {r : List ReadAns} (hs : s.session = .opened)
    (h1 : 1 ≤ k) (h8 : k ≤ 8) (hw : s.writes = .full :: w) (hr : s.reads = .byte b :: r) :
    xbitsOp v k s = .ok b { s.moved [wrote [0x33, BitVec.ofNat 8 (k - 1), v], .read (.byte b)] w r with
      bitsIn := some b } := by
  rw [xbitsOp, if_neg (by simp [hs]), if_neg (by simpa using h8), if_neg (by omega), txWrite_full _ s w hw, Res.bind_ok,
    recv1_byte b r _ (by exact hr), Res.bind_ok, sent_moved]
  rfl

/-- Settles O35: a bit transfer of 1 to 8 bits is one write and one byte; `LF-BITS` is one of K + 1 bits. -/
theorem bitTransfer : Obligations.BitTransfer := by
  refine ⟨fun s v b w r hs hw hr => ⟨fun k h1 h8 => ?_, fun K => ?_⟩, fun s v hs => ⟨?_, fun k hk => ?_⟩⟩
  · rw [exec_xbits, xbitsOp_byte hs h1 h8 hw hr]
    rfl
  · have hK : K.toNat + 1 ≤ 8 := K.isLt
    rw [exec_lfBits, xbitsOp_byte hs (by omega) hK hw hr]
    rfl
  · rw [exec_xbits, xbitsOp, if_neg (by simp [hs]), if_neg (by simp), if_pos rfl, conclude_ok]
  · rw [exec_xbits, xbitsOp, if_neg (by simp [hs]), if_pos hk, conclude_faulted]

/-! The operand checks, in the order of R173. -/

section Opened

variable {s : State} (hs : s.session = .opened)
include hs

theorem sendOp_linkOp {op : Byte} (data : Bytes) (ho : op ≠ 0x11) : sendOp op data s = .faulted .linkOp s := by
  rw [sendOp, if_neg (by simp [hs]), if_pos ho]

theorem sendOp_len {data : Bytes} (hl : Config.maxFrame < data.length) : sendOp 0x11 data s = .faulted .len s := by
  rw [sendOp, if_neg (by simp [hs]), if_neg (by simp), if_pos hl]

theorem xferOp_linkOp {op : Byte} (x : XferBuf) (n : Nat) (ho : op ≠ 0x31) : xferOp op x n s = .faulted .linkOp s := by
  rw [xferOp, if_neg (by simp [hs]), if_pos ho]

theorem xferOp_len (x : XferBuf) {n : Nat} (hl : Config.maxFrame < n) : xferOp 0x31 x n s = .faulted .len s := by
  rw [xferOp, if_neg (by simp [hs]), if_neg (by simp), if_pos hl]

theorem xferOp_buf {x : XferBuf} {n : Nat} (hl : n ≤ Config.maxFrame) (hb : xferLen x < n) :
    xferOp 0x31 x n s = .faulted .buf s := by
  rw [xferOp, if_neg (by simp [hs]), if_neg (by simp), if_neg (by omega), if_pos hb]

theorem bsendOp_buf {data : Bytes} {n : Nat} (hb : data.length < n) : bsendOp data n s = .faulted .buf s := by
  rw [bsendOp, if_neg (by simp [hs]), if_pos hb]

theorem setGpioOp_gpioDir (v : Byte) {d : Byte} (hd : d ≠ Config.gpioDirMask) :
    setGpioOp v d s = .faulted .gpioDir s := by
  rw [setGpioOp, if_neg (by simp [hs]), if_pos hd]

end Opened

/-- Settles O42: each check faults once the checks before it have passed. -/
theorem transferFaultOrder : Obligations.TransferFaultOrder := by
  intro s hs
  refine ⟨fun op data ho => ?_, fun data hl => ?_, fun op buf n ho => ?_, fun buf n hl => ⟨?_, ?_⟩,
    fun buf n hl hb => ⟨?_, ?_⟩, fun bs hl => ⟨?_, ?_⟩, fun data n hb => ?_, fun data n hn hl => ?_, fun v d hd => ?_⟩
  · exact conclude_of_faulted (sendOp_linkOp hs _ ho)
  · exact conclude_of_faulted (sendOp_len hs hl)
  · exact conclude_of_faulted (xferOp_linkOp hs _ n ho)
  · exact conclude_of_faulted (xferOp_len hs _ hl)
  · exact conclude_of_faulted (xferOp_len hs _ hl)
  · exact conclude_of_faulted (xferOp_buf hs hl hb)
  · exact conclude_of_faulted (xferOp_buf hs hl hb)
  · exact conclude_of_faulted (sendOp_len hs hl)
  · exact conclude_of_faulted (xferOp_len hs _ hl)
  · exact conclude_of_faulted (bsendOp_buf hs hb)
  · have htake : ((dataBytes data s.mem).take n).length = n := by simpa using hn
    rw [exec_bsend, show dataCount (some n) _ = n from rfl, bsendOp_of_le hs hn, sendOp_len hs (by rwa [htake]),
      conclude_faulted]
  · exact conclude_of_faulted (setGpioOp_gpioDir hs v hd)

end Sys2Proof.Machine
end

section
/-! The GPIO lines and the clock: writes of them, their order check, and reads (R78, R79, R106 to R108, R114). -/

namespace Sys2Proof.Machine

theorem exec_lfGset (v : Byte) (s : State) :
    exec (.lfGset v) s = conclude .engine (fun _ => .unit) (setGpioOp v Config.gpioDirMask s) := rfl

theorem exec_setGpio_mask (v : Byte) (s : State) :
    exec (.setGpio v 0x93) s = conclude .engine (fun _ => .unit) (setGpioOp v Config.gpioDirMask s) := rfl

theorem exec_lfGrdLow (s : State) : exec .lfGrdLow s = exec .rdGpioL s := rfl

theorem exec_lfGrdHigh (s : State) : exec .lfGrdHigh s = exec .rdGpioH s := rfl

theorem exec_rdGpioH (s : State) : exec .rdGpioH s = conclude .engine .byte (rdGpioHOp s) := rfl

theorem exec_lfClk5 (s : State) : exec .lfClk5 s = conclude .engine (fun _ => .unit) (inSession clk5Op s) := rfl

theorem exec_lfDiv (d : BitVec 16) (s : State) :
    exec (.lfDiv d) s = if s.session = .opened ∧ divisorEmitted d = false then .refused (.divisorNotEmitted d)
      else conclude .engine (fun _ => .unit) (inSession (divOp d) s) := rfl

/-! The order check. -/

theorem resetHeld_getD_iff (s : State) : (resetHeld s).getD false = true ↔ InReset s := by
  unfold resetHeld InReset
  cases s.gpioVal <;> simp

/-- A GPIO value is admitted if it does not assert chip-select, or asserts it with the board held in reset before and
after (R114). -/
theorem csOrderOk_iff (v : Byte) (s : State) :
    csOrderOk v s = true ↔ v.getLsbD 4 = true ∨ (v.getLsbD 7 = false ∧ InReset s) := by
  rw [csOrderOk, Bool.or_eq_true, Bool.and_eq_true, Bool.not_eq_true', resetHeld_getD_iff]

theorem csOrderOk_eq_false_iff (v : Byte) (s : State) :
    csOrderOk v s = false ↔ v.getLsbD 4 = false ∧ (v.getLsbD 7 = true ∨ ¬InReset s) := by
  rw [← Bool.not_eq_true, csOrderOk_iff, not_or, not_and_or, Bool.not_eq_true, Bool.not_eq_false]

theorem csOrderOk_select_eq_false_iff (s : State) : csOrderOk Config.gpioSelect s = false ↔ ¬InReset s := by
  rw [← Bool.not_eq_true, csOrderOk_select_iff]

/-! One GPIO write. -/

/-- Settles O36: both are the admitted write of `v`, answered in full. -/
theorem setGpioCompletes : Obligations.SetGpioCompletes := by
  intro s v w hs hv hw
  rw [exec_setGpio_mask, exec_lfGset, conclude_setGpioOp_full .engine hs ((csOrderOk_iff v s).mpr hv) hw]
  exact ⟨rfl, rfl⟩

theorem conclude_setGpioOp_short {v : Byte} {s : State} {n : Int} {p : Nat} {w : List WriteAns} (l : Layer)
    (hs : s.session = .opened) (hc : csOrderOk v s = true) (hw : s.writes = .count n p :: w) (hn : n ≠ 3) :
    conclude l (fun _ => .unit) (setGpioOp v Config.gpioDirMask s) =
      .next (raiseError .shortWrite l { s.sent [.write [0x80, v, 0x93] n (min p 3)] w with gpioVal := none }) := by
  rw [setGpioOp, if_neg (by simp [hs]), if_neg (by simp), if_neg (by simp [hc]),
    txWrite_short _ s n p w hw (by simpa using hn)]
  rfl

/-- Settles O38: each of the five is an admitted write, answered with a wrong count. -/
theorem gpioShortWrite : Obligations.GpioShortWrite := by
  intro s n p w hs hw hn
  refine ⟨fun v hv => ?_, fun hr => ?_, ?_, ?_⟩
  · rw [exec_setGpio_mask, exec_lfGset, conclude_setGpioOp_short .engine hs ((csOrderOk_iff v s).mpr hv) hw hn]
    exact ⟨rfl, rfl⟩
  · rw [exec_select, conclude_setGpioOp_short .bus hs ((csOrderOk_select_iff s).mpr hr) hw hn]
  · rw [exec_deselect, conclude_setGpioOp_short .bus hs (csOrderOk_deselect s) hw hn]
  · rw [exec_release, conclude_setGpioOp_short .bus hs (csOrderOk_release s) hw hn]

/-! Reads of the lines, and the clock frames. -/

theorem rdGpioLOp_byte {b : Byte} {s : State} {w : List WriteAns} {r : List ReadAns} (hs : s.session = .opened)
    (hw : s.writes = .full :: w) (hr : s.reads = .byte b :: r) :
    rdGpioLOp s = .ok b { s.moved [wrote [0x81], .read (.byte b)] w r with gpioInLo := some b } := by
  rw [rdGpioLOp_of_write hs hw, recv1_byte b r _ (by exact hr), Res.bind_ok, sent_moved]
  rfl

theorem rdGpioHOp_byte {b : Byte} {s : State} {w : List WriteAns} {r : List ReadAns} (hs : s.session = .opened)
    (hw : s.writes = .full :: w) (hr : s.reads = .byte b :: r) :
    rdGpioHOp s = .ok b { s.moved [wrote [0x83], .read (.byte b)] w r with gpioInHi := some b } := by
  rw [rdGpioHOp, if_neg (by simp [hs]), txWrite_full _ s w hw, Res.bind_ok, recv1_byte b r _ (by exact hr), Res.bind_ok,
    sent_moved]
  rfl

/-- Settles O40: one write and one byte each; the frame rows run as the requests. -/
theorem readGpio : Obligations.ReadGpio := by
  intro s b w r hs hw hr
  rw [exec_lfGrdLow, exec_lfGrdHigh, exec_rdGpioL, exec_rdGpioH, rdGpioLOp_byte hs hw hr, rdGpioHOp_byte hs hw hr]
  exact ⟨rfl, rfl, rfl, rfl⟩

theorem inSession_opened {op : State → Res Unit} {s : State} (hs : s.session = .opened) : inSession op s = op s :=
  if_neg (by simp [hs])

theorem divisorEmitted_iff (d : BitVec 16) : divisorEmitted d = true ↔ d = 0 ∨ d = 119 := decide_eq_true_iff

theorem exec_lfDiv_divisorOf {s : State} {w : List WriteAns} (slow : Bool) (hs : s.session = .opened)
    (hw : s.writes = .full :: w) :
    exec (.lfDiv (divisorOf slow)) s = .next { s.sent [wrote (divFrame (divisorOf slow))] w with
      slow := some slow, clkdiv := some (divisorOf slow), answer := .done .unit } := by
  have hemitted : divisorEmitted (divisorOf slow) = true := by cases slow <;> rfl
  rw [exec_lfDiv, if_neg (by simp [hemitted]), inSession_opened hs, divOp_divisorOf_full hw]
  rfl

/-- Settles O41: the two emitted divisors are those of `OPEN`; any other is refused before the frame. -/
theorem clockFrames : Obligations.ClockFrames := by
  refine ⟨fun s w hs hw => ⟨?_, exec_lfDiv_divisorOf false hs hw, exec_lfDiv_divisorOf true hs hw⟩,
    fun s d hs h0 h119 => ?_⟩
  · rw [exec_lfClk5, inSession_opened hs, clk5Op, txWrite_full _ s w hw, conclude_ok]
  · have hrefused : divisorEmitted d = false := by
      rw [← Bool.not_eq_true, divisorEmitted_iff]
      tauto
    rw [exec_lfDiv, if_pos ⟨hs, hrefused⟩]

end Sys2Proof.Machine
end

section
/-! Where chip-select is asserted: the first `SELECT` of a request decides whether it is refused (R114, R124, R171). -/

namespace Sys2Proof.Machine

/-- The pseudocode is refused with `F_CS_ORDER`, and nothing done, where the board is not held in reset, and cannot fault
where it is. -/
def SelectDecides {α : Type} (s : State) (r : Res α) : Prop :=
  (¬InReset s → r = .faulted .csOrder s) ∧ (InReset s → ∀ f u, r ≠ .faulted f u)

theorem conclude_eq_csOrder_iff {α : Type} {l : Layer} {ret : α → Result} {r : Res α} {s : State}
    (h : SelectDecides s r) : conclude l ret r = .next (s.reply (.faulted .csOrder)) ↔ ¬InReset s := by
  refine ⟨fun hnext hr => ?_, fun hr => conclude_of_faulted (h.1 hr)⟩
  obtain ⟨u, hfault⟩ := eq_faulted_of_conclude_answer hnext rfl
  exact h.2 hr _ u hfault

theorem Res.ok_ne_faulted {α : Type} (a : α) (s : State) (f : FCode) (u : State) : Res.ok a s ≠ .faulted f u := nofun

/-- A run goes on into pseudocode that cannot fault. -/
theorem Run.bind_ne_faulted {α β : Type} {W : List Reg} {rng : Nat × Nat} {s : State} {r : Res α}
    {k : α → State → Res β} {Q : α → State → List LinkEvent → Prop} {Z : Cause → State → Prop} (h : Run W rng s r Q Z)
    (hk : ∀ a t evs, Foot W rng s t evs → Q a t evs → ∀ f u, k a t ≠ .faulted f u) (f : FCode) (u : State) :
    r.bind k ≠ .faulted f u := by
  cases r with
  | ok a t =>
    obtain ⟨evs, hf, -, hq⟩ := h
    exact hk a t evs hf hq f u
  | raised c t => nofun
  | faulted g t => exact h.elim
  | hung => nofun

/-- What follows a decided part does not change the decision, if it cannot fault. -/
theorem SelectDecides.bind {α β : Type} {s : State} {r : Res α} {k : α → State → Res β} (h : SelectDecides s r)
    (hk : ∀ a t f u, k a t ≠ .faulted f u) : SelectDecides s (r.bind k) := by
  refine ⟨fun hr => Res.bind_of_faulted (h.1 hr) k, fun hr f u => ?_⟩
  cases r with
  | ok a t => exact hk a t f u
  | raised c t => nofun
  | faulted g t => exact absurd rfl (h.2 hr g t)
  | hung => nofun

section Opened

variable {s : State} (hs : s.session = .opened)
include hs

theorem setGpioOp_ne_faulted {v : Byte} (hc : csOrderOk v s = true) (f : FCode) (u : State) :
    setGpioOp v Config.gpioDirMask s ≠ .faulted f u :=
  (setGpioOp_run (0, 0) v s hs hc).ne_faulted

theorem conclude_setGpioOp_eq_csOrder_iff (l : Layer) (v : Byte) :
    conclude l (fun _ => .unit) (setGpioOp v Config.gpioDirMask s) = .next (s.reply (.faulted .csOrder)) ↔
      csOrderOk v s = false := by
  refine ⟨fun hnext => ?_, fun hc => conclude_of_faulted (setGpioOp_csOrder hs hc)⟩
  obtain ⟨u, hfault⟩ := eq_faulted_of_conclude_answer hnext rfl
  rw [← Bool.not_eq_true]
  exact fun hc => setGpioOp_ne_faulted hs hc _ u hfault

theorem txn_selectDecides {α : Type} {body : State → Res α}
    (hb : ∀ t, t.session = .opened → Run [] (0, 0) t (body t) (fun _ _ evs => Framed evs) AnyRaise) :
    SelectDecides s (txn body s) := by
  refine ⟨fun hr => txn_fault body s hs ((csOrderOk_select_eq_false_iff s).mpr hr), fun hr f u => ?_⟩
  have hrun := txn_run (0, 0) body s (fun _ => True) hs ((csOrderOk_select_iff s).mpr hr) fun t ht =>
    (hb t ht).weaken (fun _ _ _ _ hq => ⟨hq, trivial⟩) (fun _ _ _ _ hz => hz)
  exact hrun.ne_faulted

theorem bsendTxn_selectDecides {bs : Bytes} (hl : bs.length ≤ Config.maxFrame) :
    SelectDecides s (txn (bsendAll bs) s) :=
  txn_selectDecides hs fun t ht =>
    (bsendAll_run [] (0, 0) bs t ht hl).weaken (fun _ _ _ _ h => h.2.1) (fun _ _ _ _ _ => trivial)

theorem sOp_selectDecides (op : Byte) : SelectDecides s (sOp op s) :=
  bsendTxn_selectDecides hs (by simp [Config.maxFrame])

theorem sStatus_selectDecides : SelectDecides s (sStatus s) := by
  have htxn : SelectDecides s (txn (bxferAll [0x05, 0x00]) s) := txn_selectDecides hs fun t ht =>
    (bxferAll_run [] (0, 0) _ t ht (by decide)).weaken (fun _ _ _ _ h => h.2) (fun _ _ _ _ _ => trivial)
  exact htxn.bind fun _ _ => Res.ok_ne_faulted _ _

theorem rdsrOp_selectDecides : SelectDecides s (rdsrOp s) :=
  (sStatus_selectDecides hs).bind fun _ _ => Res.ok_ne_faulted _ _

theorem flashChecks_inReset {α : Type} (op : State → Res α) (hr : InReset s) : flashChecks op s = op s := by
  rw [flashChecks, if_neg (by simp [hs]), if_neg (by rw [(csOrderOk_select_iff s).mpr hr]; decide)]

theorem flashChecks_selectDecides {α : Type} {op : State → Res α} (h : InReset s → ∀ f u, op s ≠ .faulted f u) :
    SelectDecides s (flashChecks op s) := by
  refine ⟨fun hr => ?_, fun hr => ?_⟩
  · rw [flashChecks, if_neg (by simp [hs]), if_pos (by rw [(csOrderOk_select_eq_false_iff s).mpr hr]; rfl)]
  · rw [flashChecks_inReset hs op hr]
    exact h hr

/-- The wait makes `RDSR`s only, and each leaves the board in reset (R137). -/
theorem waitBusyOp_selectDecides : SelectDecides s (waitBusyOp s) :=
  flashChecks_selectDecides hs fun hr _ _ =>
    (waitLoop_run _ 0 { s with dbcnt := 0 } hs ((csOrderOk_select_iff s).mpr hr)).ne_faulted

/-- With `VERBOSE`, the first `RDSR` decides; without, the transaction. Each leaves the board in reset for the next
(R130). -/
theorem wrenOp_selectDecides : SelectDecides s (wrenOp s) := by
  cases hv : s.opts.verbose with
  | false =>
    rw [wrenOp_of_not_verbose hv]
    exact sOp_selectDecides hs 0x06
  | true =>
    have hop : wrenOp s = (rdsrOp s).bind fun _ t => (sOp 0x06 t).bind fun _ u => rdsrIfVerbose u := by
      rw [wrenOp, if_neg (by simp [hs]), rdsrIfVerbose, if_pos hv]
      cases rdsrOp s <;> rfl
    rw [hop]
    refine ⟨fun hr => Res.bind_of_faulted ((rdsrOp_selectDecides hs).1 hr) _, fun hr => ?_⟩
    refine (rdsrOp_run s hs ((csOrderOk_select_iff s).mpr hr)).bind_ne_faulted ?_
    rintro _ t e1 hf1 ⟨⟨-, hg1⟩, -⟩
    have ht := (hf1.session (by decide)).trans hs
    refine (sOp_run 0x06 t ht (csOrderOk_select_10 t hg1)).bind_ne_faulted ?_
    rintro _ u e2 hf2 ⟨-, hg2⟩ f v
    have hu := (hf2.session (by decide)).trans ht
    rw [rdsrIfVerbose]
    split
    · exact (rdsrOp_run u hu (csOrderOk_select_10 u hg2)).bind_ne_faulted
        (fun _ _ _ _ _ => Res.ok_ne_faulted _ _) f v
    · exact Res.ok_ne_faulted _ _ f v

/-- The write-status transaction decides, and leaves the board in reset for the wait and the last `RDSR` (R140). -/
theorem disProtOp_selectDecides : SelectDecides s (disProtOp s) := by
  refine ⟨fun hr => Res.bind_of_faulted ((bsendTxn_selectDecides hs (by decide)).1 hr) _, fun hr => ?_⟩
  have hwrite : Run gpioRegs (0, 0) s (sWriteStatus s) FlashDone lineAfterRaise :=
    (sWriteStatus_legal s).run fun f => (bsendTxn_selectDecides hs (by decide)).2 hr f s
  refine hwrite.bind_ne_faulted ?_
  rintro _ t e1 hf1 ⟨-, hg1⟩
  have ht := (hf1.session (by decide)).trans hs
  have hwait : Run (.status :: .dbcnt :: gpioRegs) (0, 0) t (waitBusyOp t) FlashDone lineAfterRaise :=
    (waitBusyOp_legal t).run fun f =>
      (waitBusyOp_selectDecides ht).2 ((csOrderOk_select_iff t).mp (csOrderOk_select_10 t hg1)) f t
  refine hwait.bind_ne_faulted ?_
  rintro _ u e2 hf2 ⟨-, hg2⟩
  have hu := (hf2.session (by decide)).trans ht
  exact (rdsrOp_run u hu (csOrderOk_select_10 u hg2)).bind_ne_faulted
    fun _ _ _ _ _ => Res.ok_ne_faulted _ _

/-- Past its check, `RDID` selects, reads, and deselects, none of which can fault (R142). -/
theorem rdIdOp_selectDecides : SelectDecides s (rdIdOp s) := by
  refine flashChecks_selectDecides hs fun hr => ?_
  have hselect := setGpioOp_run (0, 0) Config.gpioSelect (clearJedec s) hs ((csOrderOk_select_iff s).mpr hr)
  refine hselect.bind_ne_faulted ?_
  rintro _ t e1 hf1 -
  have ht : t.session = .opened := (hf1.session (by decide)).trans hs
  refine (bxferAll_run [] (0, 0) _ t ht (by decide)).bind_ne_faulted ?_
  rintro b u e2 hf2 -
  have hu : u.session = .opened := (hf2.session (by simp)).trans ht
  refine (jedecExtOp_run (b.getD 4 0) (setJedec b u) hu rfl).bind_ne_faulted ?_
  rintro _ v e3 - ⟨-, -, hv⟩
  exact (setGpioOp_run (0, 0) Config.gpioDeselect v hv (csOrderOk_deselect v)).bind_ne_faulted
    fun _ _ _ _ _ => Res.ok_ne_faulted _ _

theorem exec_plainFlash_eq_csOrder_iff {i : Instr} (hi : i ∈ plainFlash) :
    exec i s = .next (s.reply (.faulted .csOrder)) ↔ ¬InReset s := by
  cases i with
  | freset | spiReset | spiWriteStatus => exact conclude_eq_csOrder_iff (bsendTxn_selectDecides hs (by decide))
  | ce | spiWriteEnable | spiChipErase => exact conclude_eq_csOrder_iff (sOp_selectDecides hs _)
  | fpup | fpdn | spiPowerDown | spiReleasePowerDown =>
    exact conclude_eq_csOrder_iff ((sOp_selectDecides hs _).bind fun _ _ => Res.ok_ne_faulted _ _)
  | rdsr => exact conclude_eq_csOrder_iff (rdsrOp_selectDecides hs)
  | spiReadStatus1 => exact conclude_eq_csOrder_iff (sStatus_selectDecides hs)
  | wren => exact conclude_eq_csOrder_iff (wrenOp_selectDecides hs)
  | waitBusy => exact conclude_eq_csOrder_iff (waitBusyOp_selectDecides hs)
  | disProt => exact conclude_eq_csOrder_iff (disProtOp_selectDecides hs)
  | rdId | spiJedecId => exact conclude_eq_csOrder_iff (rdIdOp_selectDecides hs)
  | _ => simp [plainFlash] at hi

end Opened

/-- Settles O37: a GPIO write is refused exactly by its check; the values of `DESELECT` and `RELEASE` pass it always, and a
flash request turns on the check of its first `SELECT`. -/
theorem csOrderCheck : Obligations.CsOrderCheck := by
  intro s hs
  refine ⟨fun v => ?_, fun v => ?_, ?_, fun t hexec hanswer => ?_, fun t hexec hanswer => ?_,
    fun i hi => exec_plainFlash_eq_csOrder_iff hs hi⟩
  · rw [exec_setGpio_mask, conclude_setGpioOp_eq_csOrder_iff hs, csOrderOk_eq_false_iff]
  · rw [exec_lfGset, conclude_setGpioOp_eq_csOrder_iff hs, csOrderOk_eq_false_iff]
  · rw [exec_select, conclude_setGpioOp_eq_csOrder_iff hs, csOrderOk_select_eq_false_iff]
  · rw [exec_deselect] at hexec
    obtain ⟨u, hfault⟩ := eq_faulted_of_conclude_answer hexec hanswer
    exact setGpioOp_ne_faulted hs (csOrderOk_deselect s) _ u hfault
  · rw [exec_release] at hexec
    obtain ⟨u, hfault⟩ := eq_faulted_of_conclude_answer hexec hanswer
    exact setGpioOp_ne_faulted hs (csOrderOk_release s) _ u hfault

/-! The addressed requests: the checks in front of their transaction (R173). -/

section Opened

variable {s : State} (hs : s.session = .opened)
include hs

theorem be64kOp_of_checks {a : Nat} (ha : a < Config.addrLimit) : be64kOp a s = sBlockErase (addrOf a) s := by
  rw [be64kOp, if_neg (by simp [hs]), if_neg (by omega)]

theorem ppOp_buf {a n : Nat} {data : Bytes} (ha : a < Config.addrLimit) (hn : data.length < n) :
    ppOp a data n s = .faulted .buf s := by
  rw [ppOp, if_neg (by simp [hs]), if_neg (by omega), if_pos hn]

theorem ppOp_pageCross {a n : Nat} {data : Bytes} (ha : a < Config.addrLimit) (hn : n ≤ data.length)
    (hp : 256 < a % 256 + n) : ppOp a data n s = .faulted .pageCross s := by
  rw [ppOp_eq_of_checks hs ha hn, if_pos ((crossesPage_iff a n).mpr hp)]

theorem ppOp_of_checks {a n : Nat} {data : Bytes} (ha : a < Config.addrLimit) (hn : n ≤ data.length)
    (hp : a % 256 + n ≤ 256) : ppOp a data n s = sPageProgram (addrOf a) data n s := by
  rw [ppOp_eq_of_checks hs ha hn, if_neg (by rw [crossesPage_iff]; omega)]

theorem readOp_len {a n : Nat} (x : XferBuf) (ha : a < Config.addrLimit) (hl : Config.maxFrame < n) :
    readOp a x n s = .faulted .len s := by
  rw [readOp, if_neg (by simp [hs]), if_neg (by omega), if_pos hl]

theorem readOp_buf {a n : Nat} {x : XferBuf} (ha : a < Config.addrLimit) (hl : n ≤ Config.maxFrame)
    (hb : xferLen x < n) : readOp a x n s = .faulted .buf s := by
  rw [readOp, if_neg (by simp [hs]), if_neg (by omega), if_neg (by omega), if_pos hb]

theorem readOp_of_checks {a n : Nat} {x : XferBuf} (ha : a < Config.addrLimit) (hl : n ≤ Config.maxFrame)
    (hb : n ≤ xferLen x) : readOp a x n s = sReadData (addrOf a) x n s := by
  rw [readOp, if_neg (by simp [hs]), if_neg (by omega), if_neg (by omega), if_neg (by omega)]

/-- Outside reset a transaction is refused by its first `SELECT` (R114). -/
theorem txn_csOrder {α : Type} (body : State → Res α) (hr : ¬InReset s) : txn body s = .faulted .csOrder s :=
  txn_fault body s hs ((csOrderOk_select_eq_false_iff s).mpr hr)

end Opened

/-- Settles O49: each check faults once the checks before it have passed, and the transaction's own comes last. -/
theorem flashFaultOrder : Obligations.FlashFaultOrder := by
  intro s a hs ha
  refine ⟨fun hr => ?_, fun data n hn => ?_, fun data n hn hp => ?_, fun data n hn hp hr => ?_, fun buf n hl => ?_,
    fun buf n hl hb => ?_, fun buf n hl hb hr => ?_, fun b hr => ?_, fun b bs hp => ?_, fun b bs hp hr => ?_,
    fun b n hl => ?_, fun b n hl hr => ?_⟩
  · exact conclude_of_faulted ((be64kOp_of_checks hs ha).trans (txn_csOrder hs _ hr))
  · exact conclude_of_faulted (ppOp_buf hs ha hn)
  · exact conclude_of_faulted (ppOp_pageCross hs ha hn hp)
  · exact conclude_of_faulted ((ppOp_of_checks hs ha hn hp).trans (txn_csOrder hs _ hr))
  · exact conclude_of_faulted (readOp_len hs _ ha hl)
  · exact conclude_of_faulted (readOp_buf hs ha hl hb)
  · exact conclude_of_faulted ((readOp_of_checks (x := .host buf) hs ha hl hb).trans (txn_csOrder hs _ hr))
  · exact conclude_of_faulted ((be64kOp_of_checks hs b.isLt).trans (txn_csOrder hs _ hr))
  · exact conclude_of_faulted (ppOp_pageCross hs b.isLt le_rfl hp)
  · exact conclude_of_faulted ((ppOp_of_checks hs b.isLt le_rfl hp).trans (txn_csOrder hs _ hr))
  · exact conclude_of_faulted (readOp_len hs _ b.isLt hl)
  · have hb : n ≤ xferLen (.own (zeros n)) := List.length_replicate.ge
    exact conclude_of_faulted ((readOp_of_checks hs b.isLt hl hb).trans (txn_csOrder hs _ hr))

end Sys2Proof.Machine
end

section
/-! The flash transactions with the transport's answers held: their bytes inside the chip-select bracket (R89, R124). -/

namespace Sys2Proof.Machine

/-! The address bytes of a header (R13, R50). -/

theorem spiHeader_addrOf (op : Byte) {a : Nat} (ha : a < Config.addrLimit) : spiHeader op (addrOf a) = op :: addr3 a := by
  have htoNat : (addrOf a).toNat = a := by rw [addrOf, BitVec.toNat_ofNat, Nat.mod_eq_of_lt ha]
  rw [spiHeader, addrBytes, htoNat, addr3]

theorem spiHeader_length (op : Byte) (a : FlashAddr) : (spiHeader op a).length = 4 := rfl

theorem spiHeader_ne_nil (op : Byte) (a : FlashAddr) : spiHeader op a ≠ [] := List.cons_ne_nil _ _

/-! The bracket around a body whose link events are known. -/

/-- The state in which a transaction runs its body: chip-select asserted (R124). -/
def State.selected (s : State) (w : List WriteAns) : State :=
  { s.sent [gsetEvent Config.gpioSelect] w with
    gpioVal := some Config.gpioSelect, gpioDir := some Config.gpioDirMask }

section Admitted

variable {s : State} (hs : s.session = .opened) (hr : InReset s)
include hs hr

theorem txn_bracketed {α : Type} {body : State → Res α} {a : α} {evs : List LinkEvent} {w w' : List WriteAns}
    {r : List ReadAns} {m : Memory} (hw : s.writes = .full :: w)
    (hb : body (s.selected w) = .ok a { (s.selected w).moved evs (.full :: w') r with mem := m }) :
    txn body s = .ok a { s.bracketed (txnEvents evs) w' r with mem := m } := by
  rw [txn_full body s _ a w w' hs ((csOrderOk_select_iff s).mpr hr) hw hb hs rfl]
  simp [State.selected, State.bracketed, State.linked, txnEvents]

theorem txn_raised {α : Type} {body : State → Res α} {c : Cause} {u : State} {w : List WriteAns}
    (hw : s.writes = .full :: w) (hb : body (s.selected w) = .raised c u) : txn body s = .raised c u := by
  rw [txn, if_neg (by simp [hs]), selectOp, setGpioOp_full _ s w hs ((csOrderOk_select_iff s).mpr hr) hw, Res.bind_ok]
  exact congrArg (Res.bind · _) hb

theorem bsendTxn_full {bs : Bytes} {w : List WriteAns} (h0 : bs ≠ []) (hl : bs.length ≤ Config.maxFrame)
    (hw : s.writes = List.replicate 4 .full ++ w) :
    txn (bsendAll bs) s = .ok () (s.bracketed (sendTxn bs) w s.reads) :=
  sendTxn_full bs s w hs ((csOrderOk_select_iff s).mpr hr) h0 hl hw

theorem sOp_full (op : Byte) {w : List WriteAns} (hw : s.writes = List.replicate 4 .full ++ w) :
    sOp op s = .ok () (s.bracketed (sendTxn [op]) w s.reads) :=
  bsendTxn_full hs hr (by simp) (by simp [Config.maxFrame]) hw

theorem sWriteStatus_full {w : List WriteAns} (hw : s.writes = List.replicate 4 .full ++ w) :
    sWriteStatus s = .ok () (s.bracketed (sendTxn [0x01, 0x00]) w s.reads) :=
  bsendTxn_full hs hr (by simp) (by decide) hw

theorem powerUpOp_full {w : List WriteAns} (hw : s.writes = List.replicate 4 .full ++ w) :
    powerUpOp s = .ok () { s.bracketed (sendTxn [0xAB]) w s.reads with flashPwr := .up } := by
  rw [powerUpOp, sOp_full hs hr _ hw, Res.bind_ok]

theorem powerDownOp_full {w : List WriteAns} (hw : s.writes = List.replicate 4 .full ++ w) :
    powerDownOp s = .ok () { s.bracketed (sendTxn [0xB9]) w s.reads with flashPwr := .down } := by
  rw [powerDownOp, sOp_full hs hr _ hw, Res.bind_ok]

theorem be64kOp_full {a : Nat} {w : List WriteAns} (ha : a < Config.addrLimit)
    (hw : s.writes = List.replicate 4 .full ++ w) :
    be64kOp a s = .ok () (s.bracketed (sendTxn (0xD8 :: addr3 a)) w s.reads) := by
  rw [be64kOp_of_checks hs ha, sBlockErase, ← spiHeader_addrOf 0xD8 ha]
  exact bsendTxn_full hs hr (spiHeader_ne_nil _ _) (by simp [spiHeader_length, Config.maxFrame]) hw

end Admitted

theorem exec_wren (s : State) : exec .wren s = conclude .flash (fun _ => .unit) (wrenOp s) := rfl

theorem exec_spiWriteEnable (s : State) : exec .spiWriteEnable s = conclude .flash (fun _ => .unit) (sOp 0x06 s) := rfl

theorem exec_spiBlockErase64K (a : FlashAddr) (s : State) :
    exec (.spiBlockErase64K a) s = conclude .flash (fun _ => .unit) (be64kOp a.toNat s) := rfl

theorem exec_spiPageProgram (a : FlashAddr) (data : Bytes) (s : State) :
    exec (.spiPageProgram a data) s = conclude .flash (fun _ => .unit) (ppOp a.toNat data data.length s) := rfl

theorem exec_spiReadData (a : FlashAddr) (n : Nat) (s : State) :
    exec (.spiReadData a n) s = conclude .flash .bytes (readOp a.toNat (.own (zeros n)) n s) := rfl

theorem conclude_of_ok {α : Type} {l : Layer} {ret : α → Result} {r : Res α} {a : α} {s : State} (h : r = .ok a s) :
    conclude l ret r = .next (s.reply (.done (ret a))) := by rw [h, conclude_ok]

/-- Settles O43: each is one write-only transaction, the power commands with their record. -/
theorem fixedTransactions : Obligations.FixedTransactions := by
  intro s w hs hr hw
  have hreset : sReset s = .ok () (s.bracketed (sendTxn (List.replicate 8 0xFF)) w s.reads) :=
    bsendTxn_full hs hr (by decide) (by decide) hw
  refine ⟨?_, ?_, ?_, ?_, fun hv => ?_, ?_, ?_, fun a ha => ?_, fun a => ?_⟩
  · rintro i (_ | ⟨_, _ | ⟨_, ⟨⟩⟩⟩)
    · exact conclude_of_ok hreset
    · exact conclude_of_ok hreset
  · rintro i (_ | ⟨_, _ | ⟨_, ⟨⟩⟩⟩)
    · exact conclude_of_ok (powerUpOp_full hs hr hw)
    · exact conclude_of_ok (powerUpOp_full hs hr hw)
  · rintro i (_ | ⟨_, _ | ⟨_, ⟨⟩⟩⟩)
    · exact conclude_of_ok (powerDownOp_full hs hr hw)
    · exact conclude_of_ok (powerDownOp_full hs hr hw)
  · rintro i (_ | ⟨_, _ | ⟨_, ⟨⟩⟩⟩)
    · exact conclude_of_ok (sOp_full hs hr 0xC7 hw)
    · exact conclude_of_ok (sOp_full hs hr 0xC7 hw)
  · rw [exec_wren_of_not_verbose hv]
    exact conclude_of_ok (sOp_full hs hr 0x06 hw)
  · exact conclude_of_ok (sOp_full hs hr 0x06 hw)
  · exact conclude_of_ok (sWriteStatus_full hs hr hw)
  · exact conclude_of_ok (be64kOp_full hs hr ha hw)
  · exact conclude_of_ok (be64kOp_full hs hr a.isLt hw)

/-! The page program (R133). -/

section Admitted

variable {s : State} (hs : s.session = .opened) (hr : InReset s)
include hs hr

theorem ppOp_full {a n : Nat} {data : Bytes} {w : List WriteAns} (ha : a < Config.addrLimit) (h1 : 1 ≤ n)
    (hn : n ≤ data.length) (hp : a % 256 + n ≤ 256) (hw : s.writes = List.replicate 6 .full ++ w) :
    ppOp a data n s = .ok () (s.bracketed (txnEvents (frameEvents 0x11 (0x02 :: addr3 a) ++
      frameEvents 0x11 (data.take n))) w s.reads) := by
  have htake : (data.take n).length = n := by simpa using hn
  have hmax : (data.take n).length ≤ Config.maxFrame := by rw [htake]; simp only [Config.maxFrame]; omega
  rw [ppOp_of_checks hs ha hn hp, sPageProgram]
  refine txn_bracketed hs hr (w := List.replicate 5 .full ++ w) (r := s.reads) (m := s.mem) (by exact hw) ?_
  rw [bsendAll_full _ _ (.full :: .full :: .full :: w) (by exact hs) (spiHeader_ne_nil _ _)
    (by simp [spiHeader_length, Config.maxFrame]) rfl, Res.bind_ok, bsendOp_of_le (by exact hs) hn,
    sendOp_full _ _ (.full :: w) (by exact hs) (ne_nil_of_one_le_length (by omega)) hmax rfl, sent_sent, spiHeader_addrOf 0x02 ha]
  rfl

theorem ppOp_none_full {a : Nat} {data : Bytes} {w : List WriteAns} (ha : a < Config.addrLimit)
    (hw : s.writes = List.replicate 4 .full ++ w) :
    ppOp a data 0 s = .ok () (s.bracketed (sendTxn (0x02 :: addr3 a)) w s.reads) := by
  rw [ppOp_of_checks hs ha (Nat.zero_le _) (by omega), sPageProgram]
  refine txn_bracketed hs hr (w := List.replicate 3 .full ++ w) (r := s.reads) (m := s.mem) (by exact hw) ?_
  rw [bsendAll_full _ _ (.full :: w) (by exact hs) (spiHeader_ne_nil _ _) (by simp [spiHeader_length, Config.maxFrame]) rfl,
    Res.bind_ok, bsendOp_zero, if_neg (not_not.mpr (by exact hs)), spiHeader_addrOf 0x02 ha]
  rfl

end Admitted

/-- Settles O45: the header frame, and the data frame where there are data. -/
theorem pageProgram : Obligations.PageProgram := by
  refine ⟨fun s w a n data hs hr ha h1 hn hp hw => ?_, fun s w a data hs hr ha hw => ?_,
    fun s w a bs hs hr hp => ⟨fun h0 hw => ?_, fun h0 hw => ?_⟩⟩
  · exact conclude_of_ok (ppOp_full hs hr ha h1 hn hp hw)
  · exact conclude_of_ok (ppOp_none_full hs hr ha hw)
  · have hpp := ppOp_full hs hr a.isLt (List.length_pos_iff.mpr h0) le_rfl hp hw
    rw [List.take_length] at hpp
    exact conclude_of_ok hpp
  · subst h0
    exact conclude_of_ok (ppOp_none_full hs hr a.isLt hw)

/-! The read (R134). -/

theorem preZero_eq (x : XferBuf) (n : Nat) (s : State) : preZero x n s = { s with mem := (preZero x n s).mem } := by
  cases x <;> rfl

theorem preZero_mem_congr (x : XferBuf) (n : Nat) {s t : State} (h : t.mem = s.mem) :
    (preZero x n t).mem = (preZero x n s).mem := by
  cases x
  · exact congrArg (writeBytes · _ _) h
  · exact h

/-- What a read sends after its header: zeros, from the buffer it has zeroed or from its own array. -/
def SendsZeros (x : XferBuf) (n : Nat) (s : State) : Prop := xferBytes x n (preZero x n s).mem = zeros n

theorem sendsZeros_host {s : State} (buf : Buf) (n : Nat) (hm : Memory.wf s.mem = true) :
    SendsZeros (.host buf) n s := by
  have hread := readBytes_writeBytes (zeros n) s.mem buf.base hm
  rwa [show (zeros n).length = n from List.length_replicate] at hread

theorem sendsZeros_own (s : State) (n : Nat) : SendsZeros (.own (zeros n)) n s :=
  List.take_of_length_le List.length_replicate.le

theorem SendsZeros.congr {x : XferBuf} {n : Nat} {s t : State} (hz : SendsZeros x n s) (h : t.mem = s.mem) :
    SendsZeros x n t := by
  rwa [SendsZeros, preZero_mem_congr x n h]

theorem frameEvents_zeros {op : Byte} {n : Nat} (h0 : n ≠ 0) :
    frameEvents op (zeros n) = [wrote (byteHeader op n), wrote (zeros n)] := by
  have hlen : (zeros n).length = n := List.length_replicate
  rw [frameEvents_of_ne_nil (ne_nil_of_one_le_length (by omega)), hlen]

/-- The data part of a read of no byte. -/
theorem bxferOp_preZero_none {x : XferBuf} {u : State} (hu : u.session = .opened) : bxferOp x 0 (preZero x 0 u) =
    .ok [] { u with mem := storedMem (preZero x 0 u).mem (xferDst x) 0 [] } := by
  rw [bxferOp_zero, if_neg (not_not.mpr (by rw [preZero_eq]; exact hu))]
  cases x <;> rfl

/-- The data part of a read of bytes that each arrive at once (R134). -/
theorem bxferOp_preZero_full {x : XferBuf} {n : Nat} {rs : Bytes} {u : State} {w : List WriteAns} {r : List ReadAns}
    (hu : u.session = .opened) (h0 : n ≠ 0) (hl : n ≤ Config.maxFrame) (hb : n ≤ xferLen x) (hz : SendsZeros x n u)
    (hw : u.writes = .full :: .full :: w) (hrd : u.reads = byteReads rs ++ r) (hn : rs.length = n) :
    bxferOp x n (preZero x n u) = .ok rs { u.moved (frameEvents 0x31 (zeros n) ++ readEvents rs) w r with
      mem := storedMem (preZero x n u).mem (xferDst x) 0 rs } := by
  have hfull := xferOp_full x n rs { u with mem := (preZero x n u).mem } w r hu h0 hl hb hw hrd hn
  rw [show xferBytes x n _ = zeros n from hz] at hfull
  rw [bxferOp, preZero_eq, hfull, frameEvents_zeros h0]
  rfl

section Admitted

variable {s : State} (hs : s.session = .opened) (hr : InReset s)
include hs hr

/-- A read of bytes that each arrive at once (R134). -/
theorem readOp_full {a n : Nat} {x : XferBuf} {rs : Bytes} {w : List WriteAns} {r : List ReadAns}
    (ha : a < Config.addrLimit) (hl : n ≤ Config.maxFrame) (hb : n ≤ xferLen x) (hz : SendsZeros x n s)
    (hrd : s.reads = byteReads rs ++ r) (hn : rs.length = n)
    (hw : s.writes = List.replicate (if n = 0 then 4 else 6) .full ++ w) :
    readOp a x n s = .ok rs { s.bracketed (txnEvents (frameEvents 0x11 (0x03 :: addr3 a) ++
      frameEvents 0x31 (zeros n) ++ readEvents rs)) w r with
      mem := storedMem (preZero x n s).mem (xferDst x) 0 rs } := by
  rw [readOp_of_checks hs ha hl hb, sReadData]
  by_cases h0 : n = 0
  · obtain rfl : rs = [] := List.eq_nil_of_length_eq_zero (hn.trans h0)
    obtain rfl : s.reads = r := hrd
    subst h0
    have hnone : frameEvents 0x11 (0x03 :: addr3 a) ++ frameEvents 0x31 (zeros 0) ++ readEvents [] =
        frameEvents 0x11 (0x03 :: addr3 a) := by simp [frameEvents, zeros, readEvents]
    rw [hnone]
    refine txn_bracketed hs hr (w := List.replicate 3 .full ++ w) (by exact hw) ?_
    rw [bsendAll_full _ _ (.full :: w) (by exact hs) (spiHeader_ne_nil _ _)
      (by simp [spiHeader_length, Config.maxFrame]) rfl, Res.bind_ok, bxferOp_preZero_none (by exact hs),
      spiHeader_addrOf 0x03 ha]
    cases x <;> rfl
  · rw [if_neg h0] at hw
    refine txn_bracketed hs hr (w := List.replicate 5 .full ++ w) (by exact hw) ?_
    rw [bsendAll_full _ _ (.full :: .full :: .full :: w) (by exact hs) (spiHeader_ne_nil _ _)
      (by simp [spiHeader_length, Config.maxFrame]) rfl, Res.bind_ok, spiHeader_addrOf 0x03 ha,
      bxferOp_preZero_full (w := .full :: w) (r := r) (by exact hs) h0 hl hb (hz.congr (by rfl)) (by rfl)
        (by exact hrd) hn, sent_moved, List.append_assoc]
    cases x <;> rfl

/-- A read of fewer than `n` bytes and then a negative count: the bytes stored over the zeros (R134). -/
theorem readOp_negative {a n k : Nat} {buf : Buf} {rs : Bytes} {w : List WriteAns} {r : List ReadAns}
    (hm : Memory.wf s.mem = true) (ha : a < Config.addrLimit) (hl : n ≤ Config.maxFrame) (hb : n ≤ buf.len)
    (hlt : rs.length < n) (hrd : s.reads = byteReads rs ++ .negative k :: r)
    (hw : s.writes = List.replicate 5 .full ++ w) :
    readOp a (.host buf) n s = .raised .readNeg { (s.selected w).moved (frameEvents 0x11 (0x03 :: addr3 a) ++
      (frameEvents 0x31 (zeros n) ++ readEvents rs ++ [.read (.negative k)])) w r with
      mem := writeBytes (writeBytes s.mem buf.base (zeros n)) buf.base rs } := by
  have hzeros : readBytes (writeBytes s.mem buf.base (zeros n)) buf.base n = zeros n := sendsZeros_host buf n hm
  rw [readOp_of_checks (x := .host buf) hs ha hl hb, sReadData]
  refine txn_raised hs hr (w := List.replicate 4 .full ++ w) (by exact hw) ?_
  rw [bsendAll_full _ _ (.full :: .full :: w) (by exact hs) (spiHeader_ne_nil _ _)
    (by simp [spiHeader_length, Config.maxFrame]) rfl, Res.bind_ok, spiHeader_addrOf 0x03 ha, bxferOp, preZero_eq,
    xferOp_host_negative (w := w) (r := r) (k := k) (by exact hs) hlt hl hb (by rfl) (by exact hrd)]
  simp only [State.selected, State.linked, preZero, hzeros, List.append_assoc]

end Admitted

/-- Host memory after a read: zeros over the buffer's first `n` bytes, then the bytes received (R134). -/
theorem memRead_read_outside {m : Memory} {base n x : Nat} {rs : Bytes} (hn : rs.length ≤ n)
    (hx : ¬(base ≤ x ∧ x < base + n)) :
    memRead (writeBytes (writeBytes m base (zeros n)) base rs) x = memRead m x := by
  have hlen : (zeros n).length = n := List.length_replicate
  rw [memRead_writeBytes_outside _ _ _ _ (by omega), memRead_writeBytes_outside _ _ _ _ (by omega)]

theorem readBytes_read {m : Memory} (hm : Memory.wf m = true) (base : Nat) {n : Nat} {rs : Bytes} (hn : rs.length ≤ n) :
    readBytes (writeBytes (writeBytes m base (zeros n)) base rs) base n = rs ++ zeros (n - rs.length) := by
  have hzeros := readBytes_writeBytes (zeros n) m base hm
  rw [show (zeros n).length = n from List.length_replicate] at hzeros
  rw [readBytes_writeBytes_front _ _ _ _ (wf_writeBytes _ _ _ hm) hn, hzeros, zeros, List.drop_replicate, zeros]

/-- Settles O47: the read into the buffer, and the read into the transaction's own array. -/
theorem readData : Obligations.ReadData := by
  refine ⟨fun s w r a n buf rs hm hs hr ha hl hb hrd hn hw => ?_, fun s w r a n rs hs hr hl hrd hn hw => ?_⟩
  · refine ⟨writeBytes (writeBytes s.mem buf.base (zeros n)) buf.base rs,
      conclude_of_ok (readOp_full (x := .host buf) hs hr ha hl hb (sendsZeros_host buf n hm) hrd hn hw), ?_,
      fun x hx => memRead_read_outside hn.le hx⟩
    have hread := readBytes_read hm buf.base hn.le
    rwa [hn, Nat.sub_self, show zeros 0 = [] from rfl, List.append_nil] at hread
  · have hown : n ≤ xferLen (.own (zeros n)) := List.length_replicate.ge
    exact conclude_of_ok (readOp_full hs hr a.isLt hl hown (sendsZeros_own s n) hrd hn hw)

/-- Settles O48: no `DESELECT` follows the failed read, and the received bytes stand over the zeros. -/
theorem readDataPartial : Obligations.ReadDataPartial := by
  intro s w r a n k buf rs hm hs hr ha hl hb hlt hrd hw
  exact ⟨_, by rw [exec_read, readOp_negative hs hr hm ha hl hb hlt hrd hw, conclude_raised], rfl, rfl, readBytes_read hm buf.base hlt.le⟩

/-! The status reads (R129, R130). -/

theorem exec_rdsr (s : State) : exec .rdsr s = conclude .flash .byte (rdsrOp s) := rfl

theorem exec_spiReadStatus1 (s : State) : exec .spiReadStatus1 s = conclude .flash .byte (sStatus s) := rfl

/-- The report text of a protection field by its bits (R136). -/
theorem protRange_bits : ∀ c : BitVec 2, protRange c =
    match c.getLsbD 1, c.getLsbD 0 with
    | false, false => .none
    | false, true => .some
    | true, false => .reserved
    | true, true => .all := by decide

theorem statusSwp_getLsbD_one (sr : Byte) : (statusSwp sr).getLsbD 1 = sr.getLsbD 3 := by simp [statusSwp]

theorem statusSwp_getLsbD_zero (sr : Byte) : (statusSwp sr).getLsbD 0 = sr.getLsbD 2 := by simp [statusSwp]

/-- Settles O50: the report's fields are the status's bits, and the status read with its answers held. -/
theorem readStatus : Obligations.ReadStatus := by
  refine ⟨fun sr => ?_, fun s b0 sr w r hs hr hw hrd => ⟨?_, ?_⟩⟩
  · rw [statusReport, protRange_bits, statusSwp_getLsbD_one, statusSwp_getLsbD_zero]
    rfl
  · exact conclude_of_ok (rdsrOp_full b0 sr s w r hs ((csOrderOk_select_iff s).mpr hr) hw hrd)
  · exact conclude_of_ok (sStatus_full b0 sr s w r hs ((csOrderOk_select_iff s).mpr hr) hw hrd)

theorem rdsrIfVerbose_full {s : State} {p : Byte × Byte} {w : List WriteAns} {r : List ReadAns} (hs : s.session = .opened)
    (hc : csOrderOk Config.gpioSelect s = true) (hv : s.opts.verbose = true)
    (hw : s.writes = List.replicate 4 .full ++ w) (hrd : s.reads = .byte p.1 :: .byte p.2 :: r) :
    rdsrIfVerbose s = .ok () { s.bracketed (rdsrEvents p.1 p.2) w r with
      status := some p.2, reports := s.reports ++ [statusReport p.2] } := by
  rw [rdsrIfVerbose, if_pos hv, rdsrOp_full p.1 p.2 s w r hs hc hw hrd, Res.bind_ok]
  simp [pollReports, hv, State.bracketed]

/-- Settles O51: a status read, the transaction, and a status read that finds the board in reset. -/
theorem writeEnableVerbose : Obligations.WriteEnableVerbose := by
  intro s p q w r hs hr hv hw hrd
  have hfirst := rdsrIfVerbose_full (w := List.replicate 8 .full ++ w) (r := .byte q.1 :: .byte q.2 :: r) hs
    ((csOrderOk_select_iff s).mpr hr) hv hw hrd
  rw [exec_wren, wrenOp, if_neg (by simp [hs]), hfirst, Res.bind_ok,
    sOp_full (w := List.replicate 4 .full ++ w) (by exact hs) ⟨0x10, rfl, by decide⟩ _ (by rfl), Res.bind_ok,
    rdsrIfVerbose_full (p := q) (w := w) (r := r) (by exact hs) (csOrderOk_select_10 _ rfl) (by exact hv) (by rfl)
      (by rfl), conclude_ok]
  simp [State.reply, State.bracketed, State.linked]

end Sys2Proof.Machine
end

section
/-! The busy wait, the protection disable and the JEDEC read, with the transport's answers held (R137 to R144). -/

namespace Sys2Proof.Machine

/-! Two not-busy polls in a row (R138). -/

theorem hasQuietPair_cons_of_busy {p : Byte × Byte} (hp : statusBusy p.2 = true) (ps : List (Byte × Byte)) :
    hasQuietPair (p :: ps) = hasQuietPair ps := by
  cases ps with
  | nil => rfl
  | cons q ps => simp [hasQuietPair, hp]

theorem hasQuietPair_of_pair (a : List (Byte × Byte)) {p q : Byte × Byte} (c : List (Byte × Byte))
    (hp : statusBusy p.2 = false) (hq : statusBusy q.2 = false) : hasQuietPair (a ++ p :: q :: c) = true := by
  induction a with
  | nil => simp [hasQuietPair, hp, hq]
  | cons x a ih =>
    obtain ⟨y, b, hyb⟩ : ∃ y b, a ++ p :: q :: c = y :: b := List.exists_cons_of_ne_nil (by simp)
    rw [List.cons_append, hyb, hasQuietPair, ← hyb, ih, Bool.or_true]

theorem exists_pair_of_hasQuietPair {ps : List (Byte × Byte)} (h : hasQuietPair ps = true) :
    ∃ a p q c, ps = a ++ p :: q :: c ∧ statusBusy p.2 = false ∧ statusBusy q.2 = false := by
  fun_induction hasQuietPair ps with
  | case1 => cases h
  | case2 => cases h
  | case3 p q c ih =>
    obtain hpq | htail := Bool.or_eq_true_iff.mp h
    · obtain ⟨hp, hq⟩ : statusBusy p.2 = false ∧ statusBusy q.2 = false := by simpa using hpq
      exact ⟨[], p, q, c, rfl, hp, hq⟩
    · obtain ⟨a, x, y, b, hab, hx, hy⟩ := ih htail
      exact ⟨p :: a, x, y, b, by rw [hab, List.cons_append], hx, hy⟩

theorem ne_nil_of_hasQuietPair {ps : List (Byte × Byte)} (h : hasQuietPair ps = true) : ps ≠ [] := by
  rintro rfl
  cases h

theorem exists_lastStatus {ps : List (Byte × Byte)} (h : ps ≠ []) : ∃ sr, ps.getLast?.map Prod.snd = some sr :=
  ⟨_, by rw [List.getLast?_eq_some_getLast h, Option.map_some]⟩

/-! `WAITBUSY`: the loop starts as after a busy poll (R137). -/

theorem exec_waitBusy (s : State) : exec .waitBusy s = conclude .flash (fun _ => .unit) (waitBusyOp s) := rfl

/-- A busy poll, as which the cleared `DBCNT` counts. -/
def busyPoll : Byte × Byte := (0, 1)

section Admitted

variable {s : State} (hs : s.session = .opened) (hr : InReset s)
include hs hr

theorem waitBusyOp_inReset :
    waitBusyOp s = waitLoop (turns s.opts.busyBound s.opts.fuel) 0 { s with dbcnt := runOf busyPoll.2 } :=
  flashChecks_inReset hs _ hr

theorem waitBusyOp_quiet {ps : List (Byte × Byte)} {sr : Byte} {w : List WriteAns} {r : List ReadAns}
    (hw : s.writes = List.replicate (4 * ps.length) .full ++ w) (hrd : s.reads = pollReads ps ++ r)
    (hl : ps.getLast?.map Prod.snd = some sr) (hq : hasQuietPair ps = true) (hn : hasQuietPair ps.dropLast = false)
    (hfit : BusyFit s.opts ps.length) : waitBusyOp s = .ok () (s.polled ps sr 2 w r) := by
  obtain ⟨hturns, hbelow⟩ := hfit.spec (List.length_pos_iff.mpr (ne_nil_of_hasQuietPair hq))
  rw [waitBusyOp_inReset hs hr, waitLoop_quiet ps _ 0 busyPoll _ w r (by exact hs)
    (by exact (csOrderOk_select_iff s).mpr hr) (by exact hw) (by exact hrd) (by rfl) (by exact hturns)
    (by rwa [hasQuietPair_cons_of_busy (by rfl)]) (by rwa [hasQuietPair_cons_of_busy (by rfl)]) (by exact hbelow) sr hl]
  rfl

/-- Polls without a quiet pair reach the bound, or leave the loop running (R137, R139). -/
theorem waitBusyOp_noisy {ps : List (Byte × Byte)} {sr : Byte} {w : List WriteAns} {r : List ReadAns}
    (hw : s.writes = List.replicate (4 * ps.length) .full ++ w) (hrd : s.reads = pollReads ps ++ r) (h0 : ps ≠ [])
    (hf : ps.length ≤ turns s.opts.busyBound s.opts.fuel) (hq : hasQuietPair ps = false)
    (hb : ps.length = 1 ∨ boundReached s.opts.busyBound (0 + (ps.length - 1)) = false)
    (hl : ps.getLast?.map Prod.snd = some sr) :
    waitBusyOp s =
      if boundReached s.opts.busyBound (0 + ps.length) then .raised .busyBound (s.polled ps sr (runOf sr) w r)
      else waitLoop (turns s.opts.busyBound s.opts.fuel - ps.length) (0 + ps.length) (s.polled ps sr (runOf sr) w r) := by
  rw [waitBusyOp_inReset hs hr, waitLoop_noisy ps _ 0 busyPoll _ w r (by exact hs)
    (by exact (csOrderOk_select_iff s).mpr hr) (by exact hw) (by exact hrd) (by rfl) h0 (by exact hf)
    (by rwa [hasQuietPair_cons_of_busy (by rfl)]) (by exact hb) sr hl]
  rfl

/-- A wait that returns after polls without a quiet pair has logged more than those polls (R138). -/
theorem waitBusyOp_noisy_done {ps : List (Byte × Byte)} {w : List WriteAns} {r : List ReadAns} {t : State}
    (hw : s.writes = List.replicate (4 * ps.length) .full ++ w) (hrd : s.reads = pollReads ps ++ r)
    (hq : hasQuietPair ps = false) (ht : waitBusyOp s = .ok () t) :
    (s.txlog ++ pollEvents ps).length < t.txlog.length := by
  rw [waitBusyOp_inReset hs hr] at ht
  obtain ⟨e, he⟩ := waitLoop_noisy_done ps _ 0 busyPoll _ t w r (by exact hs)
    (by exact (csOrderOk_select_iff s).mpr hr) (by exact hw) (by exact hrd) (by rfl)
    ((hasQuietPair_cons_of_busy rfl ps).trans hq) ht
  rw [he]
  simp only [List.length_append, List.length_singleton]
  omega

end Admitted

/-- Settles O52: the wait returns with the first quiet pair, and not with polls that have none. -/
theorem waitBusyReturns : Obligations.WaitBusyReturns := by
  refine ⟨fun ps => ⟨exists_pair_of_hasQuietPair, ?_⟩,
    fun s ps sr w r hs hr hw hrd hl => ⟨fun hq hn hfit => ?_, fun hq t d ht ha => ?_⟩⟩
  · rintro ⟨a, p, q, c, rfl, hp, hq⟩
    exact hasQuietPair_of_pair a c hp hq
  · exact conclude_of_ok (waitBusyOp_quiet hs hr hw hrd hl hq hn hfit)
  · obtain ⟨⟨⟩, u, hu, rfl⟩ := eq_ok_of_conclude_answer ((exec_waitBusy s).symm.trans ht) ha
    have hlog := waitBusyOp_noisy_done hs hr hw hrd hq hu
    exact hlog

/-- Settles O53: the last of `max b 1` polls without a quiet pair is the one that reaches the bound. -/
theorem waitBusyBound : Obligations.WaitBusyBound := by
  intro s ps b sr w r hs hr hw hrd hb hlen hl hq
  have h0 : ps ≠ [] := List.length_pos_iff.mp (by omega)
  have hturns : ps.length ≤ turns s.opts.busyBound s.opts.fuel := by rw [hb]; simp only [turns]; omega
  have hbelow : ps.length = 1 ∨ boundReached s.opts.busyBound (0 + (ps.length - 1)) = false := by
    rw [hb]; simp only [boundReached, decide_eq_false_iff_not]; omega
  have hreached : boundReached s.opts.busyBound (0 + ps.length) = true := by
    rw [hb]; simp only [boundReached, decide_eq_true_eq]; omega
  rw [exec_waitBusy, waitBusyOp_noisy hs hr hw hrd h0 hturns hq hbelow hl, if_pos hreached, conclude_raised]
  rfl

/-- Settles O54: polls without a quiet pair use up the turns the model follows. -/
theorem waitBusyHangs : Obligations.WaitBusyHangs := by
  intro s ps w r hs hr hw hrd hb hlen hq
  have h0 : ps ≠ [] := List.length_pos_iff.mp (by omega)
  obtain ⟨sr, hl⟩ := exists_lastStatus h0
  have hturns : turns s.opts.busyBound s.opts.fuel = ps.length := by rw [hb, hlen]; rfl
  have hnever : ∀ n, boundReached s.opts.busyBound n = false := fun n => by rw [hb]; rfl
  rw [exec_waitBusy, waitBusyOp_noisy hs hr hw hrd h0 hturns.ge hq (.inr (hnever _)) hl,
    if_neg (by rw [hnever]; decide), hturns, Nat.sub_self]
  rfl

/-! `DISPROT` (R140). -/

theorem exec_disProt (s : State) : exec .disProt s = conclude .flash (fun _ => .unit) (disProtOp s) := rfl

theorem pollReads_append (ps qs : List (Byte × Byte)) : pollReads (ps ++ qs) = pollReads ps ++ pollReads qs := by
  induction ps with
  | nil => rfl
  | cons p ps ih => rw [List.cons_append, pollReads, ih]; rfl

theorem pollReports_append (v : Bool) (ps qs : List (Byte × Byte)) :
    pollReports v (ps ++ qs) = pollReports v ps ++ pollReports v qs := by
  cases v
  · rfl
  · exact List.map_append

/-- Settles O55: the write-status, the polls of the wait, and the status read again. -/
theorem disableProtection : Obligations.DisableProtection := by
  intro s ps q w r hs hr hw hrd hfit hq hn
  obtain ⟨sr, hl⟩ := exists_lastStatus (ne_nil_of_hasQuietPair hq)
  have hw' : s.writes = List.replicate 4 .full ++ (List.replicate (4 * ps.length) .full ++ (List.replicate 4 .full ++ w)) := by
    rw [hw, ← List.append_assoc, ← List.append_assoc, List.replicate_append_replicate, List.replicate_append_replicate]
    congr 2
    omega
  rw [exec_disProt, disProtOp, sWriteStatus_full hs hr hw', Res.bind_ok,
    waitBusyOp_quiet (ps := ps) (w := List.replicate 4 .full ++ w) (r := pollReads [q] ++ r) (by exact hs)
      ⟨0x10, rfl, by decide⟩ (by rfl) (by rw [← List.append_assoc (pollReads ps), ← pollReads_append]; exact hrd) hl hq hn
      (by exact hfit), Res.bind_ok,
    rdsrOp_full q.1 q.2 _ w r (by exact hs) (csOrderOk_select_10 _ rfl) (by rfl) (by rfl), Res.bind_ok, conclude_ok]
  by_cases h0 : q.2 = 0x00
  · rw [if_pos h0, if_pos h0]
    simp [State.reply, State.bracketed, State.polled, State.linked, pollReports_append]
  · rw [if_neg h0, if_neg h0]
    simp [State.reply, State.bracketed, State.polled, State.linked, pollReports_append, State.warn]

/-! `RDID` (R142). -/

/-- The state in which `RDID` makes its extended read: the five identity bytes received and kept, chip-select asserted. -/
def State.identified (s : State) (bs : Bytes) (w : List WriteAns) (r : List ReadAns) : State :=
  setJedec bs (((clearJedec s).selected (.full :: .full :: w)).moved
    (frameEvents 0x31 [0x9F, 0x00, 0x00, 0x00, 0x00] ++ readEvents bs) w r)

/-- `RDID` around an extended read whose end is known. -/
theorem rdIdOp_of_ext {s u : State} {b0 m d0 d1 l : Byte} {e : Bytes} {w w' : List WriteAns} {r : List ReadAns}
    (hs : s.session = .opened) (hr : InReset s) (hw : s.writes = .full :: .full :: .full :: w)
    (hrd : s.reads = byteReads [b0, m, d0, d1, l] ++ r)
    (hext : jedecExtOp l (s.identified [b0, m, d0, d1, l] w r) = .ok e u) (hu : u.session = .opened)
    (hw' : u.writes = .full :: w') :
    rdIdOp s = .ok (.jedec m d0 d1 l e) { u.sent [gsetEvent Config.gpioDeselect] w' with
      gpioVal := some Config.gpioDeselect, gpioDir := some Config.gpioDirMask } := by
  rw [rdIdOp, flashChecks_inReset hs _ hr, selectOp, setGpioOp_full _ (clearJedec s) (.full :: .full :: w) (by exact hs)
    (by exact (csOrderOk_select_iff s).mpr hr) (by exact hw), Res.bind_ok,
    bxferAll_full _ [b0, m, d0, d1, l] _ w r (by exact hs) (by simp) (by decide) (by rfl) (by exact hrd) (by rfl),
    Res.bind_ok]
  refine (congrArg (Res.bind · _) hext).trans ?_
  rw [Res.bind_ok, deselectOp, setGpioOp_full _ u w' hu (csOrderOk_deselect u) hw']
  rfl

theorem jedecExtOp_none {l : Byte} (hl : l = 0x00 ∨ l = 0xFF) (s : State) :
    jedecExtOp l s = .ok [] { s with
      jedecExt := some [], warnlog := s.warnlog ++ (if l = 0xFF then [.jedecFF] else []) } := by
  obtain rfl | rfl := hl
  · simp [jedecExtOp, Config.jedecGlitch]
  · rfl

theorem jedecExtOp_full {l : Byte} {ext : Bytes} {s : State} {w : List WriteAns} {r : List ReadAns} (h0 : l ≠ 0x00)
    (hF : l ≠ 0xFF) (hs : s.session = .opened) (hw : s.writes = .full :: .full :: w) (hrd : s.reads = byteReads ext ++ r)
    (hlen : ext.length = l.toNat) : jedecExtOp l s =
      .ok ext { s.moved (frameEvents 0x31 (zeros l.toNat) ++ readEvents ext) w r with jedecExt := some ext } := by
  have hzeros : (zeros l.toNat).length = l.toNat := List.length_replicate
  have hpos : l.toNat ≠ 0 := fun h => h0 (BitVec.eq_of_toNat_eq h)
  have hmax : (zeros l.toNat).length ≤ Config.maxFrame := by
    rw [hzeros]; have := l.isLt; simp only [Config.maxFrame]; omega
  rw [jedecExtOp, if_neg hF, if_neg h0, bxferAll_full _ ext s w r hs (ne_nil_of_one_le_length (by omega)) hmax hw hrd
    (hlen.trans hzeros.symm), Res.bind_ok]

theorem exec_rdId_eq_conclude {i : Instr} (hi : i ∈ [Instr.rdId, .spiJedecId]) (s : State) :
    exec i s = conclude .flash id (rdIdOp s) := by
  simp only [List.mem_cons, List.not_mem_nil, or_false] at hi
  obtain rfl | rfl := hi <;> rfl

/-- Settles O56: no extended read, and a warning for 0xFF. -/
theorem jedecNoExtension : Obligations.JedecNoExtension := by
  intro s b0 m d0 d1 l w r hs hr hw hrd hl i hi
  rw [exec_rdId_eq_conclude hi, rdIdOp_of_ext hs hr (w := .full :: w) hw hrd (jedecExtOp_none hl _) (by exact hs) (by rfl),
    conclude_ok]
  simp [State.identified, State.selected, setJedec, clearJedec, State.reply, State.bracketed, State.linked, txnEvents]

/-- Settles O57: the extended read is one more frame before the `DESELECT`. -/
theorem jedecExtension : Obligations.JedecExtension := by
  intro s b0 m d0 d1 l ext w r hs hr hw hrd h0 hF hlen i hi
  have hext := jedecExtOp_full (s := s.identified [b0, m, d0, d1, l] (.full :: .full :: .full :: w) (byteReads ext ++ r))
    h0 hF hs rfl rfl hlen
  rw [exec_rdId_eq_conclude hi, rdIdOp_of_ext hs hr hw (by rw [hrd, List.append_assoc]) hext (by exact hs) (by rfl),
    conclude_ok]
  simp [State.identified, State.selected, setJedec, clearJedec, State.reply, State.bracketed, State.linked, txnEvents]

end Sys2Proof.Machine
end

section
/-! The reference host's chunks: inductions on the fuel, which counts at least the bytes left (R149, R150, R155 to R158). -/

namespace Sys2Proof.Machine

/-! The write chunks (R149, R155). -/

theorem writeChunks_nil (fuel a : Nat) : writeChunks fuel a [] = [] := by cases fuel <;> rfl

theorem writeChunks_of_ne_nil {src : Bytes} (h : src ≠ []) (fuel a : Nat) :
    writeChunks (fuel + 1) a src = (a, src.take (pageWindow a)) ::
      writeChunks fuel (a + (src.take (pageWindow a)).length) (src.drop (pageWindow a)) := if_neg h

theorem add_pageWindow_mod (a : Nat) : (a + pageWindow a) % 256 = 0 := by
  simp only [pageWindow, Config.pageSize]; omega

theorem mod_add_pageWindow (a : Nat) : a % 256 + pageWindow a = 256 := by
  simp only [pageWindow, Config.pageSize]; omega

theorem pageWindow_pos (a : Nat) : 0 < pageWindow a := by
  simp only [pageWindow, Config.pageSize]; omega

theorem length_drop_pageWindow_le {src : Bytes} {fuel : Nat} (h : src.length ≤ fuel + 1) (a : Nat) :
    (src.drop (pageWindow a)).length ≤ fuel := by
  have := pageWindow_pos a
  rw [List.length_drop]
  omega

theorem writeChunks_flatMap {fuel a : Nat} {src : Bytes} (h : src.length ≤ fuel) :
    (writeChunks fuel a src).flatMap Prod.snd = src := by
  induction fuel generalizing a src with
  | zero => rw [List.eq_nil_of_length_eq_zero (Nat.le_zero.mp h)]; rfl
  | succ fuel ih =>
    by_cases h0 : src = []
    · rw [h0, writeChunks_nil]; rfl
    · rw [writeChunks_of_ne_nil h0, List.flatMap_cons, ih (length_drop_pageWindow_le h a), List.take_append_drop]

/-- Each chunk has a byte and stays inside its page. -/
theorem writeChunks_inPage {fuel a : Nat} {src : Bytes} {c : Nat × Bytes} (hc : c ∈ writeChunks fuel a src) :
    1 ≤ c.2.length ∧ c.1 % 256 + c.2.length ≤ 256 := by
  induction fuel generalizing a src with
  | zero => cases hc
  | succ fuel ih =>
    by_cases h0 : src = []
    · rw [h0, writeChunks_nil] at hc; cases hc
    · rw [writeChunks_of_ne_nil h0] at hc
      obtain rfl | hrest := List.mem_cons.mp hc
      · have hlen := List.length_pos_iff.mpr h0
        have hpos := pageWindow_pos a
        have hpage := mod_add_pageWindow a
        simp only [List.length_take]
        omega
      · exact ih hrest

/-- Each chunk starts where the bytes before it end, and one that is not the last ends its page. -/
theorem writeChunks_getElem? {fuel a k : Nat} {src : Bytes} {c : Nat × Bytes} (hc : (writeChunks fuel a src)[k]? = some c) :
    c.1 = a + (((writeChunks fuel a src).take k).flatMap Prod.snd).length ∧
    (k + 1 < (writeChunks fuel a src).length → (c.1 + c.2.length) % 256 = 0) := by
  induction fuel generalizing a src k with
  | zero => cases hc
  | succ fuel ih =>
    by_cases h0 : src = []
    · rw [h0, writeChunks_nil] at hc; cases hc
    · rw [writeChunks_of_ne_nil h0] at hc ⊢
      cases k with
      | zero =>
        cases hc
        refine ⟨rfl, fun hlast => ?_⟩
        have hrest : pageWindow a < src.length := by
          by_contra hle
          rw [List.drop_eq_nil_of_le (by omega), writeChunks_nil] at hlast
          exact absurd hlast (lt_irrefl 1)
        simpa [hrest.le] using add_pageWindow_mod a
      | succ k =>
        obtain ⟨hstart, hend⟩ := ih hc
        refine ⟨?_, fun hlast => hend (Nat.lt_of_succ_lt_succ hlast)⟩
        rw [hstart, List.take_succ_cons, List.flatMap_cons, List.length_append, Nat.add_assoc]

/-- Settles O59: the chunks joined, each inside its page, each where the one before ended. -/
theorem writeChunks_inPages : Obligations.WriteChunks :=
  fun _ _ => ⟨writeChunks_flatMap le_rfl, fun _ hc => writeChunks_inPage hc, fun _ _ hc => writeChunks_getElem? hc⟩

/-! The verify and read chunks (R150, R156, R158). -/

theorem verifyChunks_nil (fuel a : Nat) : verifyChunks fuel a [] = [] := by cases fuel <;> rfl

theorem verifyChunks_of_ne_nil {src : Bytes} (h : src ≠ []) (fuel a : Nat) :
    verifyChunks (fuel + 1) a src = (a, src.take 256) ::
      verifyChunks fuel (a + (src.take 256).length) (src.drop 256) := if_neg h

theorem readChunks_zero (fuel a : Nat) : readChunks fuel a 0 = [] := by cases fuel <;> rfl

theorem readChunks_of_ne_zero {n : Nat} (h : n ≠ 0) (fuel a : Nat) :
    readChunks (fuel + 1) a n = (a, min 256 n) :: readChunks fuel (a + min 256 n) (n - min 256 n) := if_neg h

theorem verifyChunks_flatMap {fuel a : Nat} {src : Bytes} (h : src.length ≤ fuel) :
    (verifyChunks fuel a src).flatMap Prod.snd = src := by
  induction fuel generalizing a src with
  | zero => rw [List.eq_nil_of_length_eq_zero (Nat.le_zero.mp h)]; rfl
  | succ fuel ih =>
    by_cases h0 : src = []
    · rw [h0, verifyChunks_nil]; rfl
    · rw [verifyChunks_of_ne_nil h0, List.flatMap_cons, ih (by rw [List.length_drop]; omega), List.take_append_drop]

/-- The verify chunks have the addresses and counts of the read chunks. -/
theorem verifyChunks_map_length (fuel a : Nat) (src : Bytes) :
    (verifyChunks fuel a src).map (fun c => (c.1, c.2.length)) = readChunks fuel a src.length := by
  induction fuel generalizing a src with
  | zero => rfl
  | succ fuel ih =>
    by_cases h0 : src = []
    · rw [h0, verifyChunks_nil, List.length_nil, readChunks_zero]; rfl
    · rw [verifyChunks_of_ne_nil h0, readChunks_of_ne_zero (by simpa using h0), List.map_cons, ih, List.length_take,
        List.length_drop, show src.length - 256 = src.length - min 256 src.length by omega]

theorem readChunks_getElem? {fuel a n j : Nat} {c : Nat × Nat} (hc : (readChunks fuel a n)[j]? = some c) :
    c.1 = a + 256 * j ∧ c.2 = min 256 (n - 256 * j) ∧ 1 ≤ c.2 := by
  induction fuel generalizing a n j with
  | zero => cases hc
  | succ fuel ih =>
    by_cases h0 : n = 0
    · rw [h0, readChunks_zero] at hc; cases hc
    · rw [readChunks_of_ne_zero h0] at hc
      cases j with
      | zero =>
        cases hc
        exact ⟨rfl, rfl, by omega⟩
      | succ j =>
        obtain ⟨hstart, hcount, hpos⟩ := ih hc
        omega

theorem readChunks_sum {fuel a n : Nat} (h : n ≤ fuel) : ((readChunks fuel a n).map Prod.snd).sum = n := by
  induction fuel generalizing a n with
  | zero => rw [Nat.le_zero.mp h]; rfl
  | succ fuel ih =>
    by_cases h0 : n = 0
    · rw [h0, readChunks_zero]; rfl
    · rw [readChunks_of_ne_zero h0, List.map_cons, List.sum_cons, ih (by omega)]
      omega

theorem verifyChunks_getElem? {fuel a j : Nat} {src : Bytes} {c : Nat × Bytes}
    (hc : (verifyChunks fuel a src)[j]? = some c) :
    c.1 = a + 256 * j ∧ c.2.length = min 256 (src.length - 256 * j) ∧ 1 ≤ c.2.length := by
  have hread : (readChunks fuel a src.length)[j]? = some (c.1, c.2.length) := by
    rw [← verifyChunks_map_length, List.getElem?_map, hc, Option.map_some]
  exact readChunks_getElem? hread

/-- Settles O60: the verify chunks joined, and their addresses and counts, which are those of the read chunks. -/
theorem verifyChunks_sizes : Obligations.VerifyChunks :=
  fun _ _ => ⟨verifyChunks_flatMap le_rfl, fun _ _ hc => verifyChunks_getElem? hc,
    fun _ _ _ hc => readChunks_getElem? hc, fun _ => readChunks_sum le_rfl⟩

end Sys2Proof.Machine
end
